-- ==== Sys2Proof/Word.lean ====
section
/-! DEFINITION. The word types of the APEX core and their plainest arithmetic (00_scope R7 to R9). -/

namespace Sys2Proof

/-- A register value, an operand, an immediate or a data-memory cell: XLEN = 32 bits, two's complement (R7, R9, D1). -/
abbrev Word := BitVec 32

/-- The canonical word of an instruction record (30_encoding R82). -/
abbrev CodeWord := BitVec 64

/-- A CNT_WIDTH = 64-bit counter (R7, D31). -/
abbrev Counter := BitVec 64

/-- The least value a 32-bit two's-complement word holds (R9). -/
def minInt : Int := -2147483648

/-- The greatest value a 32-bit two's-complement word holds (R9). -/
def maxInt : Int := 2147483647

end Sys2Proof
end

