-- ==== Sys2Proof/Syntax.lean ====
section
/-! DEFINITION. The instruction set: one constructor per row of spec/opcode_table.json (00_scope R2, 30_encoding R83, R84).
The operands of a constructor are the fields its format uses, in the order rd, rs1, rs2, rs3, imm; a field marked "-" in R83 has
no place here, because the core never reads it (R87; log 10). -/

namespace Sys2Proof

/-- A register field: an index that names R0 to R15 (30_encoding R86). -/
abbrev Reg := Fin 16

/-- The 19 opcodes in the order of 30_encoding R84, with the operands of their format (R83). The immediate is the 32-bit
two's-complement pattern of R85. -/
inductive Instr where
  | add (rd rs1 rs2 : Reg)
  | addl (rd rs1 : Reg) (imm : Word)
  | sub (rd rs1 rs2 : Reg)
  | subl (rd rs1 : Reg) (imm : Word)
  | mul (rd rs1 rs2 : Reg)
  | div (rd rs1 rs2 : Reg)
  | and (rd rs1 rs2 : Reg)
  | or (rd rs1 rs2 : Reg)
  | xor (rd rs1 rs2 : Reg)
  | cmp (rs1 rs2 : Reg)
  | movc (rd : Reg) (imm : Word)
  | load (rd rs1 : Reg) (imm : Word)
  | store (rs1 rs2 : Reg) (imm : Word)
  | ldr (rd rs1 rs2 : Reg)
  | str (rs1 rs2 rs3 : Reg)
  | bz (imm : Word)
  | bnz (imm : Word)
  | nop
  | halt
deriving DecidableEq, Repr, Inhabited

end Sys2Proof
end

