-- ==== Sys2Proof/WellFormed.lean ====
section
/-! DEFINITION. Instruction records as the loader receives them, and when one is well formed (30_encoding R80, R81, R89;
60_exceptions R323). `Instr` carries its field ranges in its types, so an ill-formed instruction cannot be built; the check stands
where the spec puts it, at the loader, on the raw record. -/

namespace Sys2Proof

/-- An instruction record before it is checked (30_encoding R81): an opcode number, four register fields and an immediate, none
of them known to be in range. The sequence number is the slot index (R93) and is no part of it. -/
structure Record where
  op : Nat
  rd : Nat
  rs1 : Nat
  rs2 : Nat
  rs3 : Nat
  imm : Int
deriving DecidableEq, Repr

/-- Why the loader refuses a slot (30_encoding R89, 60_exceptions R323). The spec names the causes and gives them no numbers. -/
inductive LoadReason where
  /-- Bits [31:21] of a canonical word are not 0 (R88, R89). -/
  | reservedBits
  /-- The opcode number is not one of 0 to 18 (R84, R89). -/
  | unknownOpcode (op : Nat)
  /-- A register field of a record is outside 0 to 15 (R323). -/
  | registerOutOfRange
  /-- The immediate of a record is outside [-2^31, 2^31 - 1] (R323). -/
  | immediateOutOfRange
deriving DecidableEq, Repr

/-- A register field of a record is in range (30_encoding R86, 60_exceptions R323). -/
def Record.regOk (n : Nat) : Bool := decide (n < 16)

/-- The immediate of a record is in range (30_encoding R81, 60_exceptions R323). -/
def Record.immOk (v : Int) : Bool := decide (minInt ≤ v ∧ v ≤ maxInt)

/-- The loader accepts the record: its opcode is one of the 19, every register field is 0 to 15 and the immediate is in range
(60_exceptions R323). A register field is checked whether or not the opcode uses it (log 11). -/
def Record.wellFormed (r : Record) : Bool :=
  decide (r.op < 19) && Record.regOk r.rd && Record.regOk r.rs1 && Record.regOk r.rs2 && Record.regOk r.rs3
    && Record.immOk r.imm

end Sys2Proof
end

