-- ==== Sys2Proof/Decode.lean ====
section
/-! DEFINITION. The loader's decoding of canonical words and of records, total and rejecting by name, and the encoder
(30_encoding R81 to R97, 60_exceptions R323). -/

namespace Sys2Proof

/-- The instruction with opcode number `op` and the given fields, each opcode taking the fields of its format and ignoring the
others (30_encoding R83, R84, R87). Opcodes 19 and above are refused (R89). -/
def instrOf (op : Nat) (rd rs1 rs2 rs3 : Reg) (imm : Word) : Except LoadReason Instr :=
  match op with
  | 0 => .ok (.add rd rs1 rs2)
  | 1 => .ok (.addl rd rs1 imm)
  | 2 => .ok (.sub rd rs1 rs2)
  | 3 => .ok (.subl rd rs1 imm)
  | 4 => .ok (.mul rd rs1 rs2)
  | 5 => .ok (.div rd rs1 rs2)
  | 6 => .ok (.and rd rs1 rs2)
  | 7 => .ok (.or rd rs1 rs2)
  | 8 => .ok (.xor rd rs1 rs2)
  | 9 => .ok (.cmp rs1 rs2)
  | 10 => .ok (.movc rd imm)
  | 11 => .ok (.load rd rs1 imm)
  | 12 => .ok (.store rs1 rs2 imm)
  | 13 => .ok (.ldr rd rs1 rs2)
  | 14 => .ok (.str rs1 rs2 rs3)
  | 15 => .ok (.bz imm)
  | 16 => .ok (.bnz imm)
  | 17 => .ok .nop
  | 18 => .ok .halt
  | n => .error (.unknownOpcode n)

/-- The 4-bit register field of a canonical word whose lowest bit is `lo` (30_encoding R82, R86). -/
def regAt (w : CodeWord) (lo : Nat) : Reg :=
  ⟨(w.extractLsb' lo 4).toNat, (w.extractLsb' lo 4).isLt⟩

/-- Decode a canonical word (30_encoding R82, R84, R88, R89): bits [31:21] must be 0, then the opcode word[4:0] selects. -/
def decode (w : CodeWord) : Except LoadReason Instr :=
  if w.extractLsb' 21 11 = 0#11 then
    instrOf (w.extractLsb' 0 5).toNat (regAt w 5) (regAt w 9) (regAt w 13) (regAt w 17) (w.extractLsb' 32 32)
  else .error .reservedBits

/-- Turn a record into an instruction, or say why the loader refuses it (60_exceptions R323). -/
def Record.toInstr (r : Record) : Except LoadReason Instr :=
  if h : r.rd < 16 ∧ r.rs1 < 16 ∧ r.rs2 < 16 ∧ r.rs3 < 16 then
    if minInt ≤ r.imm ∧ r.imm ≤ maxInt then
      instrOf r.op ⟨r.rd, h.1⟩ ⟨r.rs1, h.2.1⟩ ⟨r.rs2, h.2.2.1⟩ ⟨r.rs3, h.2.2.2⟩ (BitVec.ofInt 32 r.imm)
    else .error .immediateOutOfRange
  else .error .registerOutOfRange

/-- The record of an instruction, unused fields 0 (30_encoding R83, R84). -/
def Instr.toRecord : Instr → Record
  | .add rd rs1 rs2 => ⟨0, rd, rs1, rs2, 0, 0⟩
  | .addl rd rs1 imm => ⟨1, rd, rs1, 0, 0, imm.toInt⟩
  | .sub rd rs1 rs2 => ⟨2, rd, rs1, rs2, 0, 0⟩
  | .subl rd rs1 imm => ⟨3, rd, rs1, 0, 0, imm.toInt⟩
  | .mul rd rs1 rs2 => ⟨4, rd, rs1, rs2, 0, 0⟩
  | .div rd rs1 rs2 => ⟨5, rd, rs1, rs2, 0, 0⟩
  | .and rd rs1 rs2 => ⟨6, rd, rs1, rs2, 0, 0⟩
  | .or rd rs1 rs2 => ⟨7, rd, rs1, rs2, 0, 0⟩
  | .xor rd rs1 rs2 => ⟨8, rd, rs1, rs2, 0, 0⟩
  | .cmp rs1 rs2 => ⟨9, 0, rs1, rs2, 0, 0⟩
  | .movc rd imm => ⟨10, rd, 0, 0, 0, imm.toInt⟩
  | .load rd rs1 imm => ⟨11, rd, rs1, 0, 0, imm.toInt⟩
  | .store rs1 rs2 imm => ⟨12, 0, rs1, rs2, 0, imm.toInt⟩
  | .ldr rd rs1 rs2 => ⟨13, rd, rs1, rs2, 0, 0⟩
  | .str rs1 rs2 rs3 => ⟨14, 0, rs1, rs2, rs3, 0⟩
  | .bz imm => ⟨15, 0, 0, 0, 0, imm.toInt⟩
  | .bnz imm => ⟨16, 0, 0, 0, 0, imm.toInt⟩
  | .nop => ⟨17, 0, 0, 0, 0, 0⟩
  | .halt => ⟨18, 0, 0, 0, 0, 0⟩

/-- The canonical word of a record: imm, 11 reserved zeros, rs3, rs2, rs1, rd, op, most significant first (30_encoding R82). -/
def Record.word (r : Record) : CodeWord :=
  BitVec.ofInt 32 r.imm ++ (0#11 ++ (BitVec.ofNat 4 r.rs3 ++ (BitVec.ofNat 4 r.rs2 ++ (BitVec.ofNat 4 r.rs1 ++
    (BitVec.ofNat 4 r.rd ++ BitVec.ofNat 5 r.op)))))

/-- The canonical word of an instruction, unused fields 0 (30_encoding R82, R83). -/
def encode (i : Instr) : CodeWord := i.toRecord.word

/-- The instruction the decoder reads from the `nbits` bits of `w`, bit 0 least significant (the host's numbering, which is
30_encoding R8's). The bits above `nbits` are 0. A number that does not fit `nbits` bits, or more than 64 bits, is no word. -/
def decodeTableWord (nbits w : Nat) : Option Instr :=
  if nbits ≤ 64 ∧ w < 2 ^ nbits then
    match decode (BitVec.ofNat 64 w) with
    | .ok i => some i
    | .error _ => none
  else none

end Sys2Proof
end

