-- ==== Sys2Proof/Machine/Latch.lean ====
section
/-! DEFINITION. The stage latches of 10_state R33 to R35, as plain data. -/

namespace Sys2Proof.Machine

/-- The unit-local status of a latch (10_state R33, R36). -/
inductive UnitStatus where
  | free
  | busy
  | done
deriving DecidableEq, Repr, Inhabited

/-- The dispatch phase of the Decode latch (10_state R35, D36). -/
inductive Phase where
  /-- Hazard check not yet passed. -/
  | check
  /-- Hazard check passed and operands read, waiting for the target unit. -/
  | awaitUnit
deriving DecidableEq, Repr, Inhabited

/-- A stage latch (10_state R33). `instr` holds the static fields op, rd, rs1, rs2, rs3 and imm. -/
structure Latch where
  /-- The latch holds an instruction. -/
  occ : Bool
  instr : Instr
  /-- The static sequence number, the slot index (30_encoding R93). -/
  seq : Nat
  /-- The instruction's own fetch-time byte address. -/
  pc : Int
  /-- Operand values read at Decode from x[rs1], x[rs2], x[rs3]. -/
  a : Word
  b : Word
  c : Word
  /-- The result value, for opcodes that write rd. -/
  res : Word
  /-- The effective address, exact. -/
  ea : Int
  /-- The cycles the unit has spent on the instruction. -/
  count : Nat
  st : UnitStatus
deriving DecidableEq, Repr, Inhabited

/-- The Decode latch: a stage latch with two fields more (10_state R35). -/
structure DecodeLatch extends Latch where
  phase : Phase
  /-- The latch holds the invalid-fetch marker of 40_pipeline R130. -/
  invalid : Bool
deriving DecidableEq, Repr, Inhabited

end Sys2Proof.Machine
end

