-- ==== Sys2Proof/Config.lean ====
section
/-! DEFINITION. What is fixed for one core: the implementation parameters of 00_scope R7, and the free values of
93_implementation_defined. -/

namespace Sys2Proof

/-- The overflow policy of 00_scope R7 (D2): raise OverflowFault, or wrap in two's complement. -/
inductive OverflowPolicy where
  | fault
  | wrap
deriving DecidableEq, Repr

/-- The parameters a core is constructed with (00_scope R7, 60_exceptions R340). They stand in the state, fixed at construction,
so that a statement about every state holds for every choice of them. -/
structure Config where
  /-- CODE_BASE, the byte address of slot 0 (D3). -/
  codeBase : Nat
  /-- DMEM_SIZE, the number of data-memory cells (D4). -/
  dmemSize : Nat
  /-- OVERFLOW_POLICY (D2). -/
  overflow : OverflowPolicy
deriving DecidableEq, Repr

/-- The ranges 00_scope R7 gives the parameters: CODE_BASE a multiple of 4, DMEM_SIZE at least 1. -/
def Config.wellFormed (c : Config) : Bool := decide (c.codeBase % 4 = 0 ∧ 1 ≤ c.dmemSize)

/-- The parameters of `State.reset`. DESIGN CHOICE (log 4): 4000 and 4096 are the spec's example values (K1, K2); `fault` is the
spec's own default. -/
def Config.default : Config := { codeBase := 4000, dmemSize := 4096, overflow := .fault }

/-- INSN_BYTES: how far a fetch advances the pc (00_scope R7, 20_memory R61). -/
def Config.insnBytes : Int := 4

/-- MUL_LAT: Multiplier cycles from dispatch to result (00_scope R7). -/
def Config.mulLat : Nat := 3

/-- LS_LAT: Load/Store cycles from dispatch to memory access (00_scope R7). -/
def Config.lsLat : Nat := 4

/-- RQ_CAP: capacity of the retirement queue (00_scope R7, D19). -/
def Config.rqCap : Nat := 4

/-- FREE VALUE (log 7): what the fields that no rule sets hold when Fetch fills the Decode latch in the tick numbered by the
argument: operands, result, address, count and status of an instruction just fetched, and every field but the address of an
invalid-fetch marker (10_state R33, 93 U7 "any value"). It has no body: nothing constrains it. -/
opaque Config.freeLatch : Counter → Machine.DecodeLatch

/-- FREE VALUE (log 12): what the output port fault_seq shows when the fault record has no `seq` (60_exceptions R342, 93 U9). -/
opaque Config.freeFaultSeq : Counter → BitVec 32

/-- FREE VALUE (log 12): what the output port fault_addr shows when the fault record has no `addr` (60_exceptions R342, 93 U9). -/
opaque Config.freeFaultAddr : Counter → BitVec 64

/-- FREE VALUE (log 12): what fault_code shows while there is no fault record. -/
opaque Config.freeFaultCode : Counter → BitVec 3

/-- FREE VALUE (log 12): what fault_cycle shows while there is no fault record. -/
opaque Config.freeFaultCycle : Counter → BitVec 64

/-- FREE VALUE (log 12): what the data-memory read port shows for an address outside the data memory. -/
opaque Config.freeMemPort : Int → Word

end Sys2Proof
end

