-- ==== Sys2Proof/Machine/State.lean ====
section
/-! DEFINITION. The core's state, all of it plain data (10_state R20 to R40), the reset state (70_reset R360), and the reasons an
outcome can be no next state. -/

namespace Sys2Proof.Machine

/-- The run status (10_state R38). -/
inductive RunStatus where
  | running
  | halted
  | faulted
  | stopped
deriving DecidableEq, Repr

/-- The six kinds of fault (60_exceptions R322). `loadFault` is the loader's and is in no record of a constructed core. -/
inductive FaultKind where
  | loadFault
  | addressFault
  | divideByZeroFault
  | overflowFault
  | fetchFault
  | internalFault
deriving DecidableEq, Repr

/-- The fault record (60_exceptions R321). Its code is a function of its kind (`FaultKind.number`). -/
structure FaultRecord where
  kind : FaultKind
  seq : Option Nat
  addr : Option Int
  cycle : Counter
deriving DecidableEq, Repr

/-- The functional units (10_state R36, 40_pipeline R141). -/
inductive UnitId where
  | int
  | mul
  | ls
deriving DecidableEq, Repr

/-- The core's state (10_state R20), with the parameters it was constructed with (00_scope R7). -/
structure State where
  /-- CODE_BASE, DMEM_SIZE and OVERFLOW_POLICY (R7). -/
  cfg : Config
  /-- The fetch program counter, exact (R23, R24). -/
  pc : Int
  /-- Ticks begun (R29). -/
  clock : Counter
  /-- Instructions retired (R30). -/
  retired : Counter
  /-- The general registers R0 to R15 (R21). -/
  x : Vector Word 16
  /-- The zero flag Z (R26). -/
  z : Bool
  /-- The scoreboard SB (R27). -/
  sb : Vector Bool 16
  /-- The retirement queue RQ, head first (R28). -/
  rq : List Nat
  /-- Fetch enabled (R31). -/
  fetchEn : Bool
  /-- The one-cycle fetch-suppression flag (R32). -/
  redirect : Bool
  /-- The Fetch latch: every field of a stage latch (R33), with the display copy of the last instruction fetched in `instr`, `seq` and
  `pc` (R34). What enables fetching is `fetchEn` (R31); the latch's own `occ` and `st` keep their reset values (log 8). -/
  f : Latch
  /-- The Decode latch (R35). -/
  d : DecodeLatch
  /-- The Integer ALU's latch (R36). -/
  int : Latch
  /-- The Multiplier's latch (R36). -/
  mul : Latch
  /-- The Load/Store unit's latch (R36). -/
  ls : Latch
  /-- The Writeback latch (R37). -/
  wb : Latch
  /-- The run status (R38). -/
  status : RunStatus
  /-- The fault record, present only when FAULTED (R38). -/
  fault : Option FaultRecord
  /-- The instruction table CODE (R39). -/
  code : List Instr
  /-- The data memory DMEM: (address, cell) pairs, addresses strictly rising, no cell that is 0; an unlisted address reads 0
  (R40; log 9). -/
  dmem : List (Nat × Word)
deriving DecidableEq, Repr

/-- Why a core could not be constructed. The tick never answers a fault: a fault raised in a tick is a NEXT state whose `status`
is FAULTED and whose `fault` holds the record (60_exceptions R320; log 3). -/
inductive Fault where
  /-- LoadFault, code 1: raised only by the loader at construction (`construct`, Machine/Driver.lean), with the failing slot index
  and the cause; no core state exists after it (60_exceptions R323). Safe: the hardware stops here too. -/
  | loadFault (slot : Nat) (reason : LoadReason)
deriving DecidableEq, Repr

/-- Why an instruction would have no meaning. No arm of exec answers one. -/
inductive Refusal where
  /-- Raised by an arm of exec for an instruction that has no meaning yet. Safe: nothing is claimed of it. No arm raises it. -/
  | notModelled (mnemonic : String)
deriving DecidableEq, Repr

/-- An empty latch at reset: occ = 0 and st = FREE (10_state R33; 70_reset R360 gives it to all six latches, the Fetch latch among
them). DESIGN CHOICE (log 6): the other fields, which the spec leaves unspecified and never reads while occ = 0, hold 0 and NOP. -/
def Latch.empty : Latch :=
  { occ := false, instr := .nop, seq := 0, pc := 0, a := 0#32, b := 0#32, c := 0#32, res := 0#32, ea := 0, count := 0, st := .free }

/-- The empty Decode latch at reset (70_reset R360; log 6). -/
def DecodeLatch.empty : DecodeLatch := { Latch.empty with phase := .check, invalid := false }

/-- The state right after construction with parameters `cfg` and table `code` (70_reset R360). -/
def State.constructed (cfg : Config) (code : List Instr) : State :=
  { cfg := cfg
    pc := cfg.codeBase
    clock := 0#64
    retired := 0#64
    x := Vector.replicate 16 0#32
    z := false
    sb := Vector.replicate 16 false
    rq := []
    fetchEn := true
    redirect := false
    f := Latch.empty
    d := DecodeLatch.empty
    int := Latch.empty
    mul := Latch.empty
    ls := Latch.empty
    wb := Latch.empty
    status := .running
    fault := none
    code := code
    dmem := [] }

/-- The machine right after reset, with nothing placed in it: the spec's construction from the empty table, which it calls well
formed (70_reset R360, R363), with the parameters of log 4. How a program comes to run is log 5. -/
def State.reset : State := State.constructed Config.default []

end Sys2Proof.Machine
end

