-- ==== Sys2Proof/Machine/Ops.lean ====
section
/-! DEFINITION. The shared operations over the state: sequencing the stages of a tick, raising a fault, the registers, the
scoreboard, the data memory, the unit latches and the branch redirect. -/

namespace Sys2Proof.Machine

/-- What a stage, a meaning or a tick answers. -/
abbrev Result := Host.Outcome State Fault Refusal

/-- Go on with the next stage, or with the rest of a stage, unless the tick has ended: a raised fault ends it at once
(40_pipeline R122), and so does the retirement of HALT (R166). -/
def Result.andThen (r : Result) (f : State → Result) : Result :=
  match r with
  | .next s => if s.status = .running then f s else .next s
  | .fault e => .fault e
  | .refused e => .refused e

/-- The number of a fault kind (60_exceptions R322). -/
def FaultKind.number : FaultKind → Nat
  | .loadFault => 1
  | .addressFault => 2
  | .divideByZeroFault => 3
  | .overflowFault => 4
  | .fetchFault => 5
  | .internalFault => 6

/-- `raise F(info)` during a tick (60_exceptions R320, R321): record the fault with the current clock and leave RUNNING. Nothing
is rolled back. `Result.andThen` ends the tick. -/
def State.raise (s : State) (k : FaultKind) (seq : Option Nat) (addr : Option Int) : State :=
  { s with fault := some { kind := k, seq := seq, addr := addr, cycle := s.clock }, status := .faulted }

/-! ### Registers and scoreboard -/

/-- `x[r] <- v` (00_scope R10). Only Writeback calls it (10_state R22). -/
def State.writeReg (s : State) (r : Reg) (v : Word) : State := { s with x := s.x.set r v }

/-- `SB[r] <- b` (10_state R27). -/
def State.setBusy (s : State) (r : Reg) (b : Bool) : State := { s with sb := s.sb.set r b }

/-! ### Data memory (20_memory R62 to R64) -/

/-- The cell at address `a`: an address that is not listed holds 0, the value construction gives every cell (10_state R40). -/
def Memory.read : List (Nat × Word) → Nat → Word
  | [], _ => 0#32
  | (k, v) :: m, a => if k = a then v else Memory.read m a

/-- Replace the cell at address `a`, keeping the addresses rising and no cell of value 0 listed (log 9). -/
def Memory.write : List (Nat × Word) → Nat → Word → List (Nat × Word)
  | [], a, v => if v = 0#32 then [] else [(a, v)]
  | (k, w) :: m, a, v =>
    if a < k then (if v = 0#32 then (k, w) :: m else (a, v) :: (k, w) :: m)
    else if a = k then (if v = 0#32 then m else (a, v) :: m)
    else (k, w) :: Memory.write m a v

/-- The canonical form of a memory: addresses strictly rising, and no listed cell is 0. -/
abbrev Memory.wf (m : List (Nat × Word)) : Prop :=
  m.Pairwise (fun p q => p.1 < q.1) ∧ ∀ p ∈ m, p.2 ≠ 0#32

/-- The address names a cell (20_memory R62, R64). -/
def validAddress (c : Config) (ea : Int) : Bool := decide (0 ≤ ea ∧ ea < c.dmemSize)

/-- `MemRead(ea)` (20_memory R63), none where it raises AddressFault. -/
def State.memRead (s : State) (ea : Int) : Option Word :=
  if validAddress s.cfg ea then some (Memory.read s.dmem ea.toNat) else none

/-- `MemWrite(ea, v)` (20_memory R63), none where it raises AddressFault. -/
def State.memWrite (s : State) (ea : Int) (v : Word) : Option State :=
  if validAddress s.cfg ea then some { s with dmem := Memory.write s.dmem ea.toNat v } else none

/-! ### Unit latches -/

/-- The latch of a functional unit (10_state R36). -/
def State.unit (s : State) : UnitId → Latch
  | .int => s.int
  | .mul => s.mul
  | .ls => s.ls

/-- Replace the latch of a functional unit. -/
def State.setUnit (s : State) (u : UnitId) (l : Latch) : State :=
  match u with
  | .int => { s with int := l }
  | .mul => { s with mul := l }
  | .ls => { s with ls := l }

/-! ### Branch redirect -/

/-- `Redirect(target)` (40_pipeline R170): the pc goes to the target, the Fetch of this tick is suppressed, fetching is enabled,
and the Decode latch is flushed. Units, Writeback, RQ and SB stay (R171). -/
def State.redirectTo (s : State) (target : Int) : State :=
  { s with pc := target, redirect := true, fetchEn := true, d := { s.d with occ := false } }

end Sys2Proof.Machine
end

