-- ==== Sys2Proof/Machine/Operands.lean ====
section
/-! DEFINITION. Operand roles: which registers an instruction reads and writes, which unit runs it, how Decode reads its operands
and how an effective address or a branch target is formed (30_encoding R83, R90 to R92; 40_pipeline R135, R141; 43_load_store R260). -/

namespace Sys2Proof.Machine

/-- The destination register of an opcode in WRITES_RD, none for every other opcode (30_encoding R90). -/
def destOf : Instr → Option Reg
  | .add rd _ _ => some rd
  | .addl rd _ _ => some rd
  | .sub rd _ _ => some rd
  | .subl rd _ _ => some rd
  | .mul rd _ _ => some rd
  | .div rd _ _ => some rd
  | .and rd _ _ => some rd
  | .or rd _ _ => some rd
  | .xor rd _ _ => some rd
  | .cmp _ _ => none
  | .movc rd _ => some rd
  | .load rd _ _ => some rd
  | .store _ _ _ => none
  | .ldr rd _ _ => some rd
  | .str _ _ _ => none
  | .bz _ => none
  | .bnz _ => none
  | .nop => none
  | .halt => none

/-- SOURCES(op), in operand order rs1, rs2, rs3 (30_encoding R91). -/
def sourcesOf : Instr → List Reg
  | .add _ rs1 rs2 => [rs1, rs2]
  | .addl _ rs1 _ => [rs1]
  | .sub _ rs1 rs2 => [rs1, rs2]
  | .subl _ rs1 _ => [rs1]
  | .mul _ rs1 rs2 => [rs1, rs2]
  | .div _ rs1 rs2 => [rs1, rs2]
  | .and _ rs1 rs2 => [rs1, rs2]
  | .or _ rs1 rs2 => [rs1, rs2]
  | .xor _ rs1 rs2 => [rs1, rs2]
  | .cmp rs1 rs2 => [rs1, rs2]
  | .movc _ _ => []
  | .load _ rs1 _ => [rs1]
  | .store rs1 rs2 _ => [rs1, rs2]
  | .ldr _ rs1 rs2 => [rs1, rs2]
  | .str rs1 rs2 rs3 => [rs1, rs2, rs3]
  | .bz _ => []
  | .bnz _ => []
  | .nop => []
  | .halt => []

/-- The hazard registers: the sources, and rd for an opcode in WRITES_RD (30_encoding R92). -/
def hazardsOf (i : Instr) : List Reg := (destOf i).toList ++ sourcesOf i

/-- Unit routing (40_pipeline R141). -/
def unitOf : Instr → UnitId
  | .load _ _ _ => .ls
  | .store _ _ _ => .ls
  | .ldr _ _ _ => .ls
  | .str _ _ _ => .ls
  | .mul _ _ _ => .mul
  | .add _ _ _ => .int
  | .addl _ _ _ => .int
  | .sub _ _ _ => .int
  | .subl _ _ _ => .int
  | .div _ _ _ => .int
  | .and _ _ _ => .int
  | .or _ _ _ => .int
  | .xor _ _ _ => .int
  | .cmp _ _ => .int
  | .movc _ _ => .int
  | .bz _ => .int
  | .bnz _ => .int
  | .nop => .int
  | .halt => .int

/-- Some hazard register of the instruction is reserved (40_pipeline R133). -/
def State.hazard (s : State) (i : Instr) : Bool := (hazardsOf i).any (fun r => s.sb[r])

/-- The value of source number `k` of the instruction, or `old` where the opcode has no such source: Decode reads exactly the
fields in SOURCES(op) (40_pipeline R135). -/
def State.sourceValue (s : State) (i : Instr) (k : Nat) (old : Word) : Word :=
  match (sourcesOf i)[k]? with
  | some r => s.x[r]
  | none => old

/-- Operand read (40_pipeline R135): D.a, D.b and D.c take the sources' register values, and the phase becomes AWAIT_UNIT. -/
def State.readOperands (s : State) : State :=
  { s with d := { s.d with
      a := s.sourceValue s.d.instr 0 s.d.a
      b := s.sourceValue s.d.instr 1 s.d.b
      c := s.sourceValue s.d.instr 2 s.d.c
      phase := .awaitUnit } }

/-- The effective address from a base register value and an immediate, exact (43_load_store R260, R262, R264). -/
def baseImm (base imm : Word) : Int := base.toInt + imm.toInt

/-- The effective address from a base and an index register value, exact (43_load_store R260, R266, R268). -/
def baseIndex (base index : Word) : Int := base.toInt + index.toInt

/-- A branch target: the branch's own fetch-time address plus its immediate, exact (40_pipeline R170, 10_state R24). -/
def branchTarget (pc : Int) (imm : Word) : Int := pc + imm.toInt

end Sys2Proof.Machine
end

