-- ==== Sys2Proof/Machine/Control.lean ====
section
/-! DEFINITION. `Execute_INT` for BZ, BNZ, NOP and HALT, on the Integer latch (44_control R290 to R296). -/

namespace Sys2Proof.Machine

/-- BZ (R290): taken when Z = 1. -/
def execBz (imm : Word) (s : State) : Result :=
  .next (if s.z = true then s.redirectTo (branchTarget s.int.pc imm) else s)

/-- BNZ (R292): taken when Z = 0. -/
def execBnz (imm : Word) (s : State) : Result :=
  .next (if s.z = false then s.redirectTo (branchTarget s.int.pc imm) else s)

/-- NOP (R294): computes nothing. -/
def execNop (s : State) : Result := .next s

/-- HALT (R296): computes nothing in the Integer unit. Fetch disables fetching when it fetches a HALT (40_pipeline R129, `fetch`)
and Writeback ends the run when one retires (R166, `writeback`). -/
def execHalt (s : State) : Result := .next s

end Sys2Proof.Machine
end

