-- ==== Sys2Proof/Machine/Flags.lean ====
section
/-! DEFINITION. Bringing a result into range and setting the zero flag (41_integer_alu R200 to R203). -/

namespace Sys2Proof.Machine

/-- `Fit(v, s)` (41_integer_alu R200): the value in range as it is; out of range, none where it raises OverflowFault and the
two's-complement wrap under the wrap policy. -/
def fit (p : OverflowPolicy) (v : Int) : Option Word :=
  if minInt ≤ v ∧ v ≤ maxInt then some (BitVec.ofInt 32 v)
  else match p with
    | .fault => none
    | .wrap => some (BitVec.ofInt 32 v)

/-- `SetZ(v)` (41_integer_alu R201): Z is 1 exactly when the final result is 0. -/
def State.setZ (s : State) (v : Word) : State := { s with z := decide (v = 0#32) }

/-- The Integer unit computes a result that is already in range: `L.res <- v; SetZ(L.res)`. -/
def State.intResult (s : State) (v : Word) : State := { s with int := { s.int with res := v } }.setZ v

/-- The Integer unit computes `L.res <- Fit(v, L.seq); SetZ(L.res)`. A fault writes neither (41_integer_alu R203). -/
def intArith (v : Int) (s : State) : Result :=
  match fit s.cfg.overflow v with
  | some w => .next (s.intResult w)
  | none => .next (s.raise .overflowFault (some s.int.seq) none)

/-- The Multiplier computes `L.res <- Fit(v, L.seq); SetZ(L.res)` (42_multiply R240). -/
def mulArith (v : Int) (s : State) : Result :=
  match fit s.cfg.overflow v with
  | some w => .next ({ s with mul := { s.mul with res := w } }.setZ w)
  | none => .next (s.raise .overflowFault (some s.mul.seq) none)

end Sys2Proof.Machine
end

