-- ==== Sys2Proof/Machine/IntegerAlu.lean ====
section
/-! DEFINITION. `Execute_INT` for the Integer ALU instructions, on the Integer latch (41_integer_alu R205 to R223). The operands
`a`, `b` are the values Decode read from the source registers; the destination register is written at retirement (40_pipeline
R165), so the register fields themselves are not read here (log 2). -/

namespace Sys2Proof.Machine

/-- ADD (R205). -/
def execAdd (_rd _rs1 _rs2 : Reg) (s : State) : Result := intArith (s.int.a.toInt + s.int.b.toInt) s

/-- ADDL (R207). -/
def execAddl (_rd _rs1 : Reg) (imm : Word) (s : State) : Result := intArith (s.int.a.toInt + imm.toInt) s

/-- SUB (R209). -/
def execSub (_rd _rs1 _rs2 : Reg) (s : State) : Result := intArith (s.int.a.toInt - s.int.b.toInt) s

/-- SUBL (R211). -/
def execSubl (_rd _rs1 : Reg) (imm : Word) (s : State) : Result := intArith (s.int.a.toInt - imm.toInt) s

/-- DIV (R213): a zero divisor is checked first; the quotient is rounded toward zero. -/
def execDiv (_rd _rs1 _rs2 : Reg) (s : State) : Result :=
  if s.int.b = 0#32 then .next (s.raise .divideByZeroFault (some s.int.seq) none)
  else intArith (s.int.a.toInt.tdiv s.int.b.toInt) s

/-- AND (R215, R202). -/
def execAnd (_rd _rs1 _rs2 : Reg) (s : State) : Result := .next (s.intResult (s.int.a &&& s.int.b))

/-- OR (R217, R202). -/
def execOr (_rd _rs1 _rs2 : Reg) (s : State) : Result := .next (s.intResult (s.int.a ||| s.int.b))

/-- XOR (R219, R202). -/
def execXor (_rd _rs1 _rs2 : Reg) (s : State) : Result := .next (s.intResult (s.int.a ^^^ s.int.b))

/-- CMP (R221): Z only, by equality; no result. -/
def execCmp (_rs1 _rs2 : Reg) (s : State) : Result := .next { s with z := decide (s.int.a = s.int.b) }

/-- MOVC (R223). -/
def execMovc (_rd : Reg) (imm : Word) (s : State) : Result := .next (s.intResult imm)

end Sys2Proof.Machine
end

