-- ==== Sys2Proof/Machine/LoadStore.lean ====
section
/-! DEFINITION. `Execute_LS` for LOAD, STORE, LDR and STR, on the Load/Store latch, run once on its final cycle (43_load_store R260
to R268). -/

namespace Sys2Proof.Machine

/-- `L.ea <- ea; L.res <- MemRead(L.ea)` (43_load_store R262, R266), with AddressFault(L.seq, ea) out of range (R261). -/
def loadCell (ea : Int) (s : State) : Result :=
  let s := { s with ls := { s.ls with ea := ea } }
  match s.memRead ea with
  | some v => .next { s with ls := { s.ls with res := v } }
  | none => .next (s.raise .addressFault (some s.ls.seq) (some ea))

/-- `L.ea <- ea; MemWrite(L.ea, v)` (43_load_store R264, R268), with AddressFault(L.seq, ea) out of range (R261). -/
def storeCell (ea : Int) (v : Word) (s : State) : Result :=
  let s := { s with ls := { s.ls with ea := ea } }
  match s.memWrite ea v with
  | some t => .next t
  | none => .next (s.raise .addressFault (some s.ls.seq) (some ea))

/-- LOAD (R262): base a, offset imm. -/
def execLoad (_rd _rs1 : Reg) (imm : Word) (s : State) : Result := loadCell (baseImm s.ls.a imm) s

/-- STORE (R264): value a, base b, offset imm. -/
def execStore (_rs1 _rs2 : Reg) (imm : Word) (s : State) : Result := storeCell (baseImm s.ls.b imm) s.ls.a s

/-- LDR (R266): base a, index b. -/
def execLdr (_rd _rs1 _rs2 : Reg) (s : State) : Result := loadCell (baseIndex s.ls.a s.ls.b) s

/-- STR (R268): value a, base b, index c. -/
def execStr (_rs1 _rs2 _rs3 : Reg) (s : State) : Result := storeCell (baseIndex s.ls.b s.ls.c) s.ls.a s

end Sys2Proof.Machine
end

