-- ==== Sys2Proof/Machine/Multiply.lean ====
section
/-! DEFINITION. `Execute_MUL`, on the Multiplier latch, run once on its final cycle (42_multiply R240). -/

namespace Sys2Proof.Machine

/-- MUL (R240): the exact product, brought into range, and Z. -/
def execMul (_rd _rs1 _rs2 : Reg) (s : State) : Result := mulArith (s.mul.a.toInt * s.mul.b.toInt) s

end Sys2Proof.Machine
end

