-- ==== Sys2Proof/Machine/Dispatch.lean ====
section
/-! DEFINITION. `exec i s`: what i's functional unit computes, on the latch of that unit in s (Execute_INT, Execute_MUL,
Execute_LS of 40_pipeline R150, R155, R160). The stages around it are in Machine/Pipeline.lean (log 2). -/

namespace Sys2Proof.Machine

def exec (i : Instr) (s : State) : Host.Outcome State Fault Refusal :=
  match i with
  | .add rd rs1 rs2 => Sys2Proof.Machine.execAdd rd rs1 rs2 s
  | .addl rd rs1 imm => Sys2Proof.Machine.execAddl rd rs1 imm s
  | .sub rd rs1 rs2 => Sys2Proof.Machine.execSub rd rs1 rs2 s
  | .subl rd rs1 imm => Sys2Proof.Machine.execSubl rd rs1 imm s
  | .mul rd rs1 rs2 => Sys2Proof.Machine.execMul rd rs1 rs2 s
  | .div rd rs1 rs2 => Sys2Proof.Machine.execDiv rd rs1 rs2 s
  | .and rd rs1 rs2 => Sys2Proof.Machine.execAnd rd rs1 rs2 s
  | .or rd rs1 rs2 => Sys2Proof.Machine.execOr rd rs1 rs2 s
  | .xor rd rs1 rs2 => Sys2Proof.Machine.execXor rd rs1 rs2 s
  | .cmp rs1 rs2 => Sys2Proof.Machine.execCmp rs1 rs2 s
  | .movc rd imm => Sys2Proof.Machine.execMovc rd imm s
  | .load rd rs1 imm => Sys2Proof.Machine.execLoad rd rs1 imm s
  | .store rs1 rs2 imm => Sys2Proof.Machine.execStore rs1 rs2 imm s
  | .ldr rd rs1 rs2 => Sys2Proof.Machine.execLdr rd rs1 rs2 s
  | .str rs1 rs2 rs3 => Sys2Proof.Machine.execStr rs1 rs2 rs3 s
  | .bz imm => Sys2Proof.Machine.execBz imm s
  | .bnz imm => Sys2Proof.Machine.execBnz imm s
  | .nop => Sys2Proof.Machine.execNop s
  | .halt => Sys2Proof.Machine.execHalt s

end Sys2Proof.Machine
end

