-- ==== Sys2Proof/Machine/Pipeline.lean ====
section
/-! DEFINITION. The six stages of a tick and the tick itself (40_pipeline R120 to R172). -/

namespace Sys2Proof.Machine

/-! ### Hand-off and Writeback -/

/-- `HandOff(U)` (40_pipeline R145): into Writeback when the unit's instruction is at the queue head. -/
def handOff (u : UnitId) (s : State) : Result :=
  match s.rq with
  | [] => .next (s.raise .internalFault (some (s.unit u).seq) none)
  | h :: _ =>
    if h ≠ (s.unit u).seq then .next s
    else if s.wb.occ then .next (s.raise .internalFault (some (s.unit u).seq) none)
    else .next ({ s with wb := s.unit u }.setUnit u { s.unit u with occ := false, st := .free })

/-- Writeback's register write and scoreboard release, for an opcode in WRITES_RD (40_pipeline R165). -/
def State.commitResult (s : State) : State :=
  match destOf s.wb.instr with
  | some rd => (s.writeReg rd s.wb.res).setBusy rd false
  | none => s

/-- `Writeback()` (40_pipeline R165, R166). -/
def writeback (s : State) : Result :=
  if s.wb.occ = false then .next s
  else if s.rq.head? ≠ some s.wb.seq then .next (s.raise .internalFault (some s.wb.seq) none)
  else
    let s := s.commitResult
    let s := { s with rq := s.rq.tail, retired := s.retired + 1#64, wb := { s.wb with occ := false } }
    .next (if s.wb.instr = .halt then { s with status := .halted } else s)

/-! ### Functional units -/

/-- `LoadStore()` (40_pipeline R160 to R162). -/
def loadStore (s : State) : Result :=
  if s.ls.occ = false then .next s
  else
    let computed : Result :=
      if s.ls.st = .busy then
        let s := s.setUnit .ls { s.ls with count := s.ls.count + 1 }
        if s.ls.count = Config.lsLat then
          Result.andThen (exec s.ls.instr s) fun t => .next (t.setUnit .ls { t.ls with st := .done })
        else .next s
      else .next s
    computed.andThen fun t => if t.ls.st = .done then handOff .ls t else .next t

/-- `Multiply()` (40_pipeline R155 to R157). -/
def multiply (s : State) : Result :=
  if s.mul.occ = false then .next s
  else
    let computed : Result :=
      if s.mul.st = .busy then
        let s := s.setUnit .mul { s.mul with count := s.mul.count + 1 }
        if s.mul.count = Config.mulLat then
          Result.andThen (exec s.mul.instr s) fun t => .next (t.setUnit .mul { t.mul with st := .done })
        else .next s
      else .next s
    computed.andThen fun t => if t.mul.st = .done then handOff .mul t else .next t

/-- `Integer()` (40_pipeline R150, R151): computes only at the queue head, and hands off in the same tick. -/
def integer (s : State) : Result :=
  if s.int.occ = false then .next s
  else
    match s.rq with
    | [] => .next (s.raise .internalFault (some s.int.seq) none)
    | h :: _ =>
      if h ≠ s.int.seq then .next s
      else Result.andThen (exec s.int.instr s) fun t => handOff .int (t.setUnit .int { t.int with st := .done })

/-! ### Decode / Dispatch -/

/-- The reservation a dispatch makes, for an opcode in WRITES_RD (40_pipeline R139). -/
def State.reserve (s : State) (i : Instr) : State :=
  match destOf i with
  | some rd => s.setBusy rd true
  | none => s

/-- Unit availability and dispatch (40_pipeline R136 to R142). -/
def dispatch (s : State) : Result :=
  let u := unitOf s.d.instr
  if (s.unit u).occ then .next s
  else if s.rq.length = Config.rqCap then .next (s.raise .internalFault (some s.d.seq) none)
  else
    let s := s.setUnit u { s.d.toLatch with count := 0, st := .busy, occ := true }
    let s := s.reserve s.d.instr
    .next { s with rq := s.rq ++ [s.d.seq], d := { s.d with occ := false } }

/-- `Decode()` (40_pipeline R131 to R142). -/
def decodeStage (s : State) : Result :=
  if s.d.occ = false then .next s
  else if s.d.invalid then
    (if s.rq = [] then .next (s.raise .fetchFault none (some s.d.pc)) else .next s)
  else match s.d.phase with
    | .check => if s.hazard s.d.instr then .next s else dispatch s.readOperands
    | .awaitUnit => dispatch s

/-! ### Fetch -/

/-- The slot a pc names, none where it names no slot of a table of `n` instructions (10_state R25, 20_memory R61). -/
def slotOf (c : Config) (n : Nat) (pc : Int) : Option Nat :=
  let off := pc - c.codeBase
  if off % Config.insnBytes = 0 ∧ 0 ≤ off / Config.insnBytes ∧ off / Config.insnBytes < n then
    some (off / Config.insnBytes).toNat
  else none

/-- What the slot at a pc holds: its index, which is the sequence number (30_encoding R93), and its instruction. -/
def State.fetchSlot (s : State) (pc : Int) : Option (Nat × Instr) :=
  match slotOf s.cfg s.code.length pc with
  | some k => (s.code[k]?).map fun i => (k, i)
  | none => none

/-- The Decode latch filled with a fetched instruction (40_pipeline R128). Every field the rule does not set is a free value
(93 U7; log 7). -/
def fetched (s : State) (k : Nat) (i : Instr) : DecodeLatch :=
  { Config.freeLatch s.clock with instr := i, seq := k, pc := s.pc, occ := true, invalid := false, phase := .check }

/-- The invalid-fetch marker for the current pc (40_pipeline R130). Every field the rule does not set is a free value (log 7). -/
def marker (s : State) : DecodeLatch :=
  { Config.freeLatch s.clock with pc := s.pc, occ := true, invalid := true }

/-- `Fetch()` (40_pipeline R125 to R130). -/
def fetch (s : State) : Result :=
  if s.redirect then .next { s with redirect := false }
  else if s.fetchEn = false then .next s
  else if s.d.occ then .next s
  else match s.fetchSlot s.pc with
    | some (k, i) => .next { s with
        f := { s.f with instr := i, seq := k, pc := s.pc }
        d := fetched s k i
        pc := s.pc + Config.insnBytes
        fetchEn := decide (i ≠ .halt) }
    | none => .next { s with d := marker s, fetchEn := false }

/-! ### The tick -/

/-- `Tick()` (40_pipeline R120). A core that is not RUNNING does not tick, and every component keeps its value (10_state R38). -/
def tick (s : State) : Result :=
  match s.status with
  | .running =>
    ((((((writeback { s with clock := s.clock + 1#64 }).andThen loadStore).andThen multiply).andThen integer).andThen
      decodeStage).andThen fetch)
  | .halted => .next s
  | .faulted => .next s
  | .stopped => .next s

/-! ### Placing an instruction to be run by the next tick -/

/-- A RUNNING core with nothing in flight, no register reserved and fetching enabled. -/
def State.emptied (s : State) : State :=
  { s with
    rq := []
    sb := Vector.replicate 16 false
    fetchEn := true
    redirect := false
    d := { s.d with occ := false }
    int := { s.int with occ := false, st := .free }
    mul := { s.mul with occ := false, st := .free }
    ls := { s.ls with occ := false, st := .free }
    wb := { s.wb with occ := false }
    status := .running
    fault := none }

/-- An emptied core that fetches `i` next: `i` is in the slot the pc names, or in slot 0 of a one-slot table with the pc at its
address where the pc names no slot (log 5). -/
def loadAtFetch (s : State) (i : Instr) : State :=
  match slotOf s.cfg s.code.length s.pc with
  | some k => { s.emptied with code := s.code.set k i }
  | none => { s.emptied with code := [i], pc := s.cfg.codeBase }

/-- The cycles a unit has spent before the tick in which it computes (40_pipeline R150, R155, R160). -/
def cyclesBeforeFinal : UnitId → Nat
  | .int => 0
  | .mul => Config.mulLat - 1
  | .ls => Config.lsLat - 1

/-- `i` fetched and dispatched by the core's own Fetch and Decode, with its unit before the cycle in which it computes: the next tick
runs it (log 5). -/
def placeAtFetch (s : State) (i : Instr) : State :=
  match (fetch (loadAtFetch s i)).andThen decodeStage with
  | .next t => t.setUnit (unitOf i) { t.unit (unitOf i) with count := cyclesBeforeFinal (unitOf i) }
  | .fault _ => s
  | .refused _ => s

end Sys2Proof.Machine
end

