-- ==== Sys2Proof/Machine/Step.lean ====
section
/-! DEFINITION. One step of the machine is one tick (40_pipeline R120; 60_exceptions R340 "single step is one tick"; log 1). -/

namespace Sys2Proof.Machine

/-- One step: one tick. -/
def step (s : State) : Host.Outcome State Fault Refusal := tick s

/-- `s` with the instruction whose canonical word is `w` loaded where Fetch reads next, fetched and dispatched, so that the very next
tick runs it (log 5). A word the loader refuses places nothing (30_encoding R89). -/
def State.withFetchWord (s : State) (nbits w : Nat) : State :=
  match Sys2Proof.decodeTableWord nbits w with
  | some i => placeAtFetch s i
  | none => s

end Sys2Proof.Machine
end

