-- ==== Sys2Proof/Machine/Driver.lean ====
section
/-! DEFINITION. The driver's side of the core: construction, the stop request, the clocked interface and the output ports
(60_exceptions R323, R340 to R343; 70_reset R360, R361). The driver writes no core state between ticks. -/

namespace Sys2Proof.Machine

/-! ### Construction -/

/-- Load a table slot by slot from index `k`, or name the first slot that is refused and why (60_exceptions R323). -/
def loadTable {α : Type} (loadOne : α → Except LoadReason Instr) : Nat → List α → Except Fault (List Instr)
  | _, [] => .ok []
  | k, w :: ws =>
    match loadOne w with
    | .error r => .error (.loadFault k r)
    | .ok i =>
      match loadTable loadOne (k + 1) ws with
      | .error e => .error e
      | .ok is => .ok (i :: is)

/-- Construct a core from a loaded table, or fail with no state (70_reset R360). DESIGN CHOICE (log 16): the parameters are taken as
they are; outside the ranges of 00_scope R7 the core is constructed too. -/
def constructFrom (cfg : Config) (table : Except Fault (List Instr)) : Result :=
  match table with
  | .ok code => .next (State.constructed cfg code)
  | .error e => .fault e

/-- Construction from canonical words (30_encoding R82, R89; 60_exceptions R342 `code_word`). -/
def construct (cfg : Config) (words : List CodeWord) : Result := constructFrom cfg (loadTable decode 0 words)

/-- Construction from instruction records (30_encoding R80, 60_exceptions R323). -/
def constructRecords (cfg : Config) (records : List Record) : Result :=
  constructFrom cfg (loadTable Record.toInstr 0 records)

/-! ### Requests -/

/-- The stop request, taken at a tick boundary (60_exceptions R341). -/
def stop (s : State) : State :=
  match s.status with
  | .running => { s with status := .stopped }
  | .halted => s
  | .faulted => s
  | .stopped => s

/-- The inputs the core samples at a clock edge (60_exceptions R342): `rst_load` with the parameters and code words it presents,
`stop_req`, and `step`. -/
structure Inputs where
  rstLoad : Option (Config × List CodeWord)
  stopReq : Bool
  stepEn : Bool
deriving DecidableEq, Repr

/-- One clock edge (60_exceptions R342). A reset discards every component and constructs anew (70_reset R361). A stop request is
taken at the tick boundary, so before the tick of that edge. DESIGN CHOICE (log 14): the order of a stop request and the tick of one
edge, and that a reset drops the other two inputs of its edge: the new core is neither stopped nor ticked by it. -/
def clockEdge (inp : Inputs) (s : State) : Result :=
  match inp.rstLoad with
  | some (cfg, words) => construct cfg words
  | none =>
    let s := if inp.stopReq then stop s else s
    if inp.stepEn then step s else .next s

/-! ### Observation -/

/-- The number of a run status on the status port (60_exceptions R342). -/
def RunStatus.number : RunStatus → BitVec 2
  | .running => 0
  | .halted => 1
  | .faulted => 2
  | .stopped => 3

/-- The numbered output ports (60_exceptions R342). Everything else the driver reads (R340) is the state itself. -/
structure Ports where
  status : BitVec 2
  faultCode : BitVec 3
  faultSeq : BitVec 32
  faultAddr : BitVec 64
  faultCycle : BitVec 64
  clock : BitVec 64
  retired : BitVec 64
deriving DecidableEq, Repr

/-- The output ports of a state (60_exceptions R342). A fault port without a value to show is a free value (93 U9; log 12). DESIGN
CHOICE (log 17): a seq or an address wider than its port shows its low bits, an address in two's complement. -/
def observe (s : State) : Ports :=
  { status := RunStatus.number s.status
    faultCode := match s.fault with
      | some r => BitVec.ofNat 3 r.kind.number
      | none => Config.freeFaultCode s.clock
    faultSeq := match s.fault.bind (·.seq) with
      | some n => BitVec.ofNat 32 n
      | none => Config.freeFaultSeq s.clock
    faultAddr := match s.fault.bind (·.addr) with
      | some a => BitVec.ofInt 64 a
      | none => Config.freeFaultAddr s.clock
    faultCycle := match s.fault with
      | some r => r.cycle
      | none => Config.freeFaultCycle s.clock
    clock := s.clock
    retired := s.retired }

/-- The register read port (60_exceptions R342). -/
def readRegPort (s : State) (r : Reg) : Word := s.x[r]

/-- The data-memory read port (60_exceptions R342, 20_memory R70); out of range it shows a free value (log 12). -/
def readMemPort (s : State) (ea : Int) : Word := (s.memRead ea).getD (Config.freeMemPort ea)

end Sys2Proof.Machine
end

