-- ==== Sys2Proof/Safety.lean ====
section
/-! DEFINITION. The terms the claims are stated in: which latches hold an instruction in flight, the pipeline invariant of 10_state
R43 with what it needs to be kept by every tick, runs of several ticks, and the contents a rule may read. -/

namespace Sys2Proof.Machine

/-! ### Instructions in flight -/

/-- The four latches that hold a dispatched, unretired instruction (10_state R43). -/
inductive Holder where
  | wb
  | int
  | mul
  | ls
deriving DecidableEq, Repr

/-- The latch of a holder. -/
def State.held (s : State) : Holder → Latch
  | .wb => s.wb
  | .int => s.int
  | .mul => s.mul
  | .ls => s.ls

/-- The holder's latch is occupied. -/
abbrev State.inFlight (s : State) (h : Holder) : Prop := (s.held h).occ = true

/-- The holder's latch is occupied by an instruction that will write register `r`. -/
abbrev State.willWrite (s : State) (h : Holder) (r : Reg) : Prop :=
  s.inFlight h ∧ destOf (s.held h).instr = some r

/-- `hs` lists the occupied latches in dispatch order: each once, their sequence numbers are RQ, the Writeback latch first. A HALT
in the Integer unit is the last (10_state R43 point 2; 40_pipeline R187). -/
def State.dispatchOrder (s : State) (hs : List Holder) : Prop :=
  hs.Nodup ∧ (∀ h, h ∈ hs ↔ s.inFlight h) ∧ s.rq = hs.map (fun h => (s.held h).seq)
    ∧ (s.wb.occ = true → hs.head? = some .wb)
    ∧ (s.int.occ = true → s.int.instr = .halt → hs.getLast? = some .int)

/-! ### The pipeline invariant -/

/-- The latch holds the instruction of its own slot, fetched from that slot's address (30_encoding R93, 10_state R43 point 6). -/
def State.fromTable (s : State) (l : Latch) : Prop :=
  s.code[l.seq]? = some l.instr ∧ l.pc = s.cfg.codeBase + 4 * (l.seq : Int)

/-- A multi-cycle unit's status and count: BUSY with fewer cycles than its latency, or DONE with all of them (10_state R36,
40_pipeline R157). -/
def unitProgress (l : Latch) (lat : Nat) : Prop :=
  (l.st = .busy ∧ l.count < lat) ∨ (l.st = .done ∧ l.count = lat)

/-- The data memory is in its canonical form and lists only cells that exist (10_state R40, 20_memory R62). -/
def State.memoryOk (s : State) : Prop :=
  Memory.wf s.dmem ∧ ∀ p ∈ s.dmem, p.1 < s.cfg.dmemSize

/-- What holds of a RUNNING core at every tick boundary (10_state R43), with the facts of 40_pipeline R185 to R187 and 10_state
R36 that make it kept by every tick. -/
structure State.Inv (s : State) : Prop where
  running : s.status = .running
  noFault : s.fault = none
  params : s.cfg.wellFormed = true
  memory : s.memoryOk
  /-- 10_state R32, R43 point 5. -/
  noRedirect : s.redirect = false
  /-- 10_state R43 point 2. -/
  queue : ∃ hs, s.dispatchOrder hs
  /-- 10_state R43 point 3: a set bit has a writer in flight, and a writer in flight sets its bit. -/
  busy : ∀ r : Reg, s.sb[r] = true ↔ ∃ h, s.willWrite h r
  /-- 10_state R43 point 3, 70_reset R366: no register has two writers in flight. -/
  oneWriter : ∀ (r : Reg) (h k : Holder), s.willWrite h r → s.willWrite k r → h = k
  /-- 30_encoding R93. -/
  heldFromTable : ∀ h, s.inFlight h → s.fromTable (s.held h)
  /-- 10_state R43 point 6. -/
  decodeFromTable : s.d.occ = true → s.d.invalid = false → s.fromTable s.d.toLatch
  /-- 40_pipeline R135: an instruction waiting for its unit has passed its hazard check, and no bit it needs has been set since. -/
  awaitClear : s.d.occ = true → s.d.invalid = false → s.d.phase = .awaitUnit → s.hazard s.d.instr = false
  /-- 10_state R36, 40_pipeline R141: each unit holds instructions routed to it, and is FREE exactly when it is empty. -/
  intUnit : s.int.occ = true → unitOf s.int.instr = .int ∧ s.int.st = .busy
  mulUnit : s.mul.occ = true → unitOf s.mul.instr = .mul ∧ unitProgress s.mul Config.mulLat
  lsUnit : s.ls.occ = true → unitOf s.ls.instr = .ls ∧ unitProgress s.ls Config.lsLat
  emptyFree : (s.int.occ = false → s.int.st = .free) ∧ (s.mul.occ = false → s.mul.st = .free)
    ∧ (s.ls.occ = false → s.ls.st = .free)
  /-- 40_pipeline R129, R130: a HALT or a marker in the Decode latch has disabled fetching. -/
  decodeStops : s.d.occ = true → (s.d.invalid = true ∨ s.d.instr = .halt) → s.fetchEn = false
  /-- 40_pipeline R187: behind a dispatched HALT nothing is fetched. -/
  haltInInt : s.int.occ = true → s.int.instr = .halt → s.fetchEn = false ∧ s.d.occ = false
  /-- 40_pipeline R187: a HALT in Writeback is alone. -/
  haltInWb : s.wb.occ = true → s.wb.instr = .halt →
    s.fetchEn = false ∧ s.d.occ = false ∧ s.int.occ = false ∧ s.mul.occ = false ∧ s.ls.occ = false
  /-- 40_pipeline R186: fetching is disabled only behind a marker or a HALT that is still in the core. -/
  stopHasCause : s.fetchEn = false →
    (s.d.occ = true ∧ (s.d.invalid = true ∨ s.d.instr = .halt))
      ∨ (s.int.occ = true ∧ s.int.instr = .halt) ∨ (s.wb.occ = true ∧ s.wb.instr = .halt)

/-- Every occupied unit holds an instruction routed to it (40_pipeline R141). -/
def State.routed (s : State) : Prop :=
  (s.int.occ = true → unitOf s.int.instr = .int) ∧ (s.mul.occ = true → unitOf s.mul.instr = .mul)
    ∧ (s.ls.occ = true → unitOf s.ls.instr = .ls)

/-- A fault record is there exactly when the core is FAULTED (10_state R38). -/
def State.faultMatches (s : State) : Prop := s.fault.isSome = true ↔ s.status = .faulted

/-! ### Effects named in frames -/

/-- The instruction is a branch (44_control R290, R292). -/
def isBranch : Instr → Bool
  | .bz _ => true
  | .bnz _ => true
  | _ => false

/-- The opcodes that write Z (10_state R26). -/
def writesZ : Instr → Bool
  | .load _ _ _ => false
  | .store _ _ _ => false
  | .ldr _ _ _ => false
  | .str _ _ _ => false
  | .bz _ => false
  | .bnz _ => false
  | .nop => false
  | .halt => false
  | _ => true

/-- The address a store writes, computed as its meaning computes it (43_load_store R264, R268); none for every other opcode. -/
def storedAddress (i : Instr) (l : Latch) : Option Int :=
  match i with
  | .store _ _ imm => some (baseImm l.b imm)
  | .str _ _ _ => some (baseIndex l.b l.c)
  | _ => none

/-- The address a Load/Store instruction accesses, computed as its meaning computes it (43_load_store R262 to R268); none for every
other opcode. -/
def accessAddress (i : Instr) (l : Latch) : Option Int :=
  match i with
  | .load _ _ imm => some (baseImm l.a imm)
  | .ldr _ _ _ => some (baseIndex l.a l.b)
  | .store _ _ imm => some (baseImm l.b imm)
  | .str _ _ _ => some (baseIndex l.b l.c)
  | _ => none

/-- The latch's operands are the values in `x` of the registers its opcode reads, in operand order (30_encoding R91, 40_pipeline
R135). -/
def Latch.operandsFrom (l : Latch) (x : Vector Word 16) : Prop :=
  (∀ r, (sourcesOf l.instr)[0]? = some r → l.a = x[r]) ∧ (∀ r, (sourcesOf l.instr)[1]? = some r → l.b = x[r])
    ∧ ∀ r, (sourcesOf l.instr)[2]? = some r → l.c = x[r]

/-! ### Runs -/

/-- `n` ticks, stopping at an outcome that is no next state. -/
def ticks : Nat → State → Result
  | 0, s => .next s
  | n + 1, s =>
    match step s with
    | .next t => ticks n t
    | .fault e => .fault e
    | .refused e => .refused e

/-- One instruction, just fetched and valid, alone in a RUNNING core that fetches nothing more: no unit is occupied, nothing is
queued, no register is reserved. -/
def State.alone (s : State) (i : Instr) : Prop :=
  s.status = .running ∧ s.rq = [] ∧ s.int.occ = false ∧ s.mul.occ = false ∧ s.ls.occ = false ∧ s.wb.occ = false
    ∧ s.redirect = false ∧ s.fetchEn = false ∧ s.sb = Vector.replicate 16 false
    ∧ s.d.occ = true ∧ s.d.invalid = false ∧ s.d.phase = .check ∧ s.d.instr = i

/-- A core that meets the invariant with nothing in flight and one instruction, just fetched and valid, in the Decode latch; unless
that is a HALT, Fetch goes on (40_pipeline R186). -/
def State.startsWith (s : State) (i : Instr) : Prop :=
  s.Inv ∧ s.rq = [] ∧ s.d.occ = true ∧ s.d.invalid = false ∧ s.d.phase = .check ∧ s.d.instr = i

/-! ### What a rule may read -/

/-- An empty latch with its unspecified fields set aside (10_state R33: "never read while occ = 0"). -/
def Latch.readable (l : Latch) : Latch := if l.occ then l else { Latch.empty with st := l.st }

/-- The Decode latch with the unspecified fields of an empty latch set aside (10_state R33, R35). -/
def DecodeLatch.readable (l : DecodeLatch) : DecodeLatch :=
  if l.occ then l else { DecodeLatch.empty with st := l.st }

/-- The state with the unspecified fields of its empty latches set aside. -/
def State.readable (s : State) : State :=
  { s with d := s.d.readable, int := s.int.readable, mul := s.mul.readable, ls := s.ls.readable, wb := s.wb.readable }

/-- The bits of a canonical word that the instruction's format uses, with the opcode and the reserved bits (30_encoding R82,
R83). -/
def usedBits : Instr → CodeWord
  | .add _ _ _ => 0x00000000FFE1FFFF#64
  | .addl _ _ _ => 0xFFFFFFFFFFE01FFF#64
  | .sub _ _ _ => 0x00000000FFE1FFFF#64
  | .subl _ _ _ => 0xFFFFFFFFFFE01FFF#64
  | .mul _ _ _ => 0x00000000FFE1FFFF#64
  | .div _ _ _ => 0x00000000FFE1FFFF#64
  | .and _ _ _ => 0x00000000FFE1FFFF#64
  | .or _ _ _ => 0x00000000FFE1FFFF#64
  | .xor _ _ _ => 0x00000000FFE1FFFF#64
  | .cmp _ _ => 0x00000000FFE1FE1F#64
  | .movc _ _ => 0xFFFFFFFFFFE001FF#64
  | .load _ _ _ => 0xFFFFFFFFFFE01FFF#64
  | .store _ _ _ => 0xFFFFFFFFFFE1FE1F#64
  | .ldr _ _ _ => 0x00000000FFE1FFFF#64
  | .str _ _ _ => 0x00000000FFFFFE1F#64
  | .bz _ => 0xFFFFFFFFFFE0001F#64
  | .bnz _ => 0xFFFFFFFFFFE0001F#64
  | .nop => 0x00000000FFE0001F#64
  | .halt => 0x00000000FFE0001F#64

end Sys2Proof.Machine
end

