-- ==== Sys2Proof/Certificates/Slice0/Obligations.lean ====
section
/-! DEFINITION. The statements for the provers. Each docstring says which rules or sections of spec/ it formalises. -/

open Sys2Proof Sys2Proof.Machine

/-! ### Encoding and loading -/

/-- 30_encoding R82, R84: decoding the canonical word of an instruction gives the instruction back, for every opcode and every value
of every operand. -/
def Obligations.DecodeOfEncodeIsTheInstruction : Prop :=
  ∀ i : Instr, decode (encode i) = .ok i

/-- 30_encoding R82, R87: what a legal word decodes to depends only on the opcode, the reserved bits and the fields its format
uses, and the encoder writes exactly those bits and 0 elsewhere. -/
def Obligations.DecodeReadsOnlyTheUsedBits : Prop :=
  ∀ (w v : CodeWord) (i : Instr), decode w = .ok i → v &&& usedBits i = w &&& usedBits i →
    decode v = .ok i ∧ encode i = w &&& usedBits i

/-- 30_encoding R97: the four worked encodings, read both ways. -/
def Obligations.WorkedEncodingsOfTheSpec : Prop :=
  (encode (.movc 0 5#32) = 0x000000050000000A#64 ∧ decode 0x000000050000000A#64 = .ok (.movc 0 5#32)) ∧
  (encode (.add 2 0 1) = 0x0000000000002040#64 ∧ decode 0x0000000000002040#64 = .ok (.add 2 0 1)) ∧
  (encode (.bnz (BitVec.ofInt 32 (-8))) = 0xFFFFFFF800000010#64 ∧
    decode 0xFFFFFFF800000010#64 = .ok (.bnz (BitVec.ofInt 32 (-8)))) ∧
  (encode (.str 3 1 2) = 0x000000000004260E#64 ∧ decode 0x000000000004260E#64 = .ok (.str 3 1 2))

/-- 30_encoding R88, R89: the illegal words are exactly those with an opcode of 19 to 31 or a reserved bit set; the decoder refuses
each, and accepts every other word. -/
def Obligations.IllegalWordsAreExactlyTheRefusedOnes : Prop :=
  ∀ w : CodeWord,
    (∃ r, decode w = .error r) ↔ (19 ≤ (w.extractLsb' 0 5).toNat ∨ w.extractLsb' 21 11 ≠ 0#11)

/-- 60_exceptions R323: a record loads exactly when it passes the loader's check. That an unused register field is checked too is
the model's choice (log 11). -/
def Obligations.RecordsLoadExactlyWhenWellFormed : Prop :=
  ∀ r : Record, (∃ i, r.toInstr = .ok i) ↔ r.wellFormed = true

/-- 30_encoding section 6, 60_exceptions section 2: a table of legal words constructs, slot by slot; any other table fails with
LoadFault, and there is no state. That the slot reported is the FIRST illegal one is the model's inference (DEDUCED, log 11): the spec
says only that the driver gets the failing slot index. -/
def Obligations.ConstructionAcceptsExactlyLegalTables : Prop :=
  ∀ (cfg : Config) (words : List CodeWord),
    ((∀ w ∈ words, ∃ i, decode w = .ok i) →
      ∃ code, construct cfg words = .next (State.constructed cfg code) ∧ words.map decode = code.map Except.ok) ∧
    ((∃ w ∈ words, ∃ r, decode w = .error r) →
      ∃ k w r, words[k]? = some w ∧ decode w = .error r ∧ (∀ j, j < k → ∀ v, words[j]? = some v → ∃ i, decode v = .ok i) ∧
        construct cfg words = .fault (.loadFault k r))

/-! ### Reset -/

/-- 70_reset R360: a malformed table fails with LoadFault and no state; otherwise construction sets every component of the table to
its reset value. -/
def Obligations.ConstructionSetsEveryResetValue : Prop :=
  ∀ (cfg : Config) (words : List CodeWord),
    ((∃ w ∈ words, ∃ r, decode w = .error r) → ∃ k r, construct cfg words = .fault (.loadFault k r)) ∧
    ∀ code : List Instr, words.map decode = code.map Except.ok → ∃ s, construct cfg words = .next s ∧ s.cfg = cfg
      ∧ s.pc = cfg.codeBase ∧ s.clock = 0#64 ∧ s.retired = 0#64
      ∧ (∀ r : Reg, s.x[r] = 0#32) ∧ s.z = false ∧ (∀ r : Reg, s.sb[r] = false) ∧ s.rq = [] ∧ s.fetchEn = true
      ∧ s.redirect = false ∧ (s.f.occ = false ∧ s.f.st = .free)
      ∧ (s.d.occ = false ∧ s.d.st = .free) ∧ (s.int.occ = false ∧ s.int.st = .free) ∧ (s.mul.occ = false ∧ s.mul.st = .free)
      ∧ (s.ls.occ = false ∧ s.ls.st = .free) ∧ (s.wb.occ = false ∧ s.wb.st = .free)
      ∧ s.status = .running ∧ s.fault = none ∧ s.code = code ∧ (∀ a, Memory.read s.dmem a = 0#32)

/-- 70_reset R363: an empty table constructs; tick 1 places a marker, and tick 2 raises FetchFault at CODE_BASE with cycle 2. -/
def Obligations.EmptyTableFaultsInTickTwo : Prop :=
  ∀ cfg : Config, ∃ s t u, construct cfg [] = .next s ∧ step s = .next t ∧ step t = .next u
    ∧ t.status = .running ∧ t.d.occ = true ∧ t.d.invalid = true ∧ t.d.pc = cfg.codeBase ∧ t.fetchEn = false
    ∧ u.status = .faulted
    ∧ u.fault = some { kind := .fetchFault, seq := none, addr := some (cfg.codeBase : Int), cycle := 2#64 }

/-- 10_state R43: the pipeline invariant holds of every newly constructed core. -/
def Obligations.ConstructedCoreMeetsThePipelineInvariant : Prop :=
  ∀ (cfg : Config) (code : List Instr), cfg.wellFormed = true → (State.constructed cfg code).Inv

/-- 10_state R38, 20_memory R70, 40_pipeline R141: the invariants that every step keeps hold of every newly constructed core, and of
the reset state. -/
def Obligations.ConstructedCoreMeetsTheStepInvariants : Prop :=
  (∀ (cfg : Config) (code : List Instr), (State.constructed cfg code).memoryOk ∧ (State.constructed cfg code).routed ∧
    (State.constructed cfg code).faultMatches) ∧
  State.reset.memoryOk ∧ State.reset.routed ∧ State.reset.faultMatches

/-! ### A step runs the instruction -/

/-- 40_pipeline R120, R128, R150, R155, R160: what one tick does with an instruction. (1) With nothing in the Decode latch and no
instruction in flight, it fetches the slot the pc names into the Decode latch. (2) With the Integer unit's instruction at the queue
head and no other unit occupied, it runs exec of that instruction, then the hand-off, Decode and Fetch. (3) and (4) the same for the
Multiplier and the Load/Store unit on their final cycle. That the Fetch latch's other fields stay as they are at the fetch is the
model's choice (log 8). -/
def Obligations.TickRunsTheFetchedInstruction : Prop :=
  (∀ (s : State) (k : Nat) (i : Instr), s.status = .running → s.wb.occ = false → s.int.occ = false → s.mul.occ = false →
    s.ls.occ = false → s.d.occ = false → s.redirect = false → s.fetchEn = true → s.code[k]? = some i →
    s.pc = s.cfg.codeBase + 4 * (k : Int) →
    ∃ d : DecodeLatch, d.occ = true ∧ d.invalid = false ∧ d.phase = .check ∧ d.instr = i ∧ d.seq = k ∧ d.pc = s.pc ∧
      step s = .next { s with
        clock := s.clock + 1#64, f := { s.f with instr := i, seq := k, pc := s.pc }, d := d, pc := s.pc + 4,
        fetchEn := decide (i ≠ .halt) }) ∧
  (∀ (s : State) (q : List Nat), s.status = .running → s.wb.occ = false → s.mul.occ = false → s.ls.occ = false →
    s.int.occ = true → s.rq = s.int.seq :: q →
    step s = ((Result.andThen (exec s.int.instr { s with clock := s.clock + 1#64 })
      fun t => handOff .int (t.setUnit .int { t.int with st := .done })).andThen decodeStage).andThen fetch) ∧
  (∀ s : State, s.status = .running → s.wb.occ = false → s.ls.occ = false → s.mul.occ = true → s.mul.st = .busy →
    s.mul.count = 2 →
    step s = (((((Result.andThen (exec s.mul.instr { s with clock := s.clock + 1#64, mul := { s.mul with count := 3 } })
      fun t => .next (t.setUnit .mul { t.mul with st := .done })).andThen (handOff .mul)).andThen
        integer).andThen decodeStage).andThen fetch)) ∧
  (∀ s : State, s.status = .running → s.wb.occ = false → s.ls.occ = true → s.ls.st = .busy → s.ls.count = 3 →
    step s = ((((((Result.andThen (exec s.ls.instr { s with clock := s.clock + 1#64, ls := { s.ls with count := 4 } })
      fun t => .next (t.setUnit .ls { t.ls with st := .done })).andThen (handOff .ls)).andThen multiply).andThen
        integer).andThen decodeStage).andThen fetch))

/-! ### What each instruction computes -/

/-- 41_integer_alu R200, R201, R205, R207, R209, R211, R213 and 42_multiply R240: where the exact result fits a word, the unit's
result is that word, Z says whether it is 0, and nothing else changes. -/
def Obligations.ArithmeticResultInRange : Prop :=
  ∀ (s : State) (rd rs1 rs2 : Reg) (imm w : Word),
    (w.toInt = s.int.a.toInt + s.int.b.toInt →
      exec (.add rd rs1 rs2) s = .next { s with int := { s.int with res := w }, z := decide (w = 0#32) }) ∧
    (w.toInt = s.int.a.toInt + imm.toInt →
      exec (.addl rd rs1 imm) s = .next { s with int := { s.int with res := w }, z := decide (w = 0#32) }) ∧
    (w.toInt = s.int.a.toInt - s.int.b.toInt →
      exec (.sub rd rs1 rs2) s = .next { s with int := { s.int with res := w }, z := decide (w = 0#32) }) ∧
    (w.toInt = s.int.a.toInt - imm.toInt →
      exec (.subl rd rs1 imm) s = .next { s with int := { s.int with res := w }, z := decide (w = 0#32) }) ∧
    (w.toInt = s.mul.a.toInt * s.mul.b.toInt →
      exec (.mul rd rs1 rs2) s = .next { s with mul := { s.mul with res := w }, z := decide (w = 0#32) })

/-- 41_integer_alu R200, R201, R213 and 42_multiply R240: under `wrap`, ADD, ADDL, SUB, SUBL and MUL give the low 32 bits of the exact
result, whatever the operands, and Z of that word; -2^31 by -1 gives -2^31 and clears Z. -/
def Obligations.ArithmeticWrapsUnderTheWrapPolicy : Prop :=
  ∀ (s : State) (rd rs1 rs2 : Reg) (imm : Word), s.cfg.overflow = .wrap →
    exec (.add rd rs1 rs2) s =
      .next { s with int := { s.int with res := s.int.a + s.int.b }, z := decide (s.int.a + s.int.b = 0#32) } ∧
    exec (.addl rd rs1 imm) s =
      .next { s with int := { s.int with res := s.int.a + imm }, z := decide (s.int.a + imm = 0#32) } ∧
    exec (.sub rd rs1 rs2) s =
      .next { s with int := { s.int with res := s.int.a - s.int.b }, z := decide (s.int.a - s.int.b = 0#32) } ∧
    exec (.subl rd rs1 imm) s =
      .next { s with int := { s.int with res := s.int.a - imm }, z := decide (s.int.a - imm = 0#32) } ∧
    exec (.mul rd rs1 rs2) s =
      .next { s with mul := { s.mul with res := s.mul.a * s.mul.b }, z := decide (s.mul.a * s.mul.b = 0#32) } ∧
    (s.int.a = BitVec.ofInt 32 minInt → s.int.b = BitVec.ofInt 32 (-1) →
      exec (.div rd rs1 rs2) s = .next { s with int := { s.int with res := BitVec.ofInt 32 minInt }, z := false })

/-- 60_exceptions R326, R320, R321: under `fault` a result out of range raises OverflowFault with the instruction's seq, no address
and the current cycle; no result and no Z is written. -/
def Obligations.OverflowFaultsUnderTheFaultPolicy : Prop :=
  ∀ (s : State) (rd rs1 rs2 : Reg) (imm : Word), s.cfg.overflow = .fault →
    let out (v : Int) : Prop := v < -2147483648 ∨ 2147483647 < v
    let faulted (q : Nat) : State := { s with
      status := .faulted, fault := some { kind := .overflowFault, seq := some q, addr := none, cycle := s.clock } }
    (out (s.int.a.toInt + s.int.b.toInt) → exec (.add rd rs1 rs2) s = .next (faulted s.int.seq)) ∧
    (out (s.int.a.toInt + imm.toInt) → exec (.addl rd rs1 imm) s = .next (faulted s.int.seq)) ∧
    (out (s.int.a.toInt - s.int.b.toInt) → exec (.sub rd rs1 rs2) s = .next (faulted s.int.seq)) ∧
    (out (s.int.a.toInt - imm.toInt) → exec (.subl rd rs1 imm) s = .next (faulted s.int.seq)) ∧
    (out (s.mul.a.toInt * s.mul.b.toInt) → exec (.mul rd rs1 rs2) s = .next (faulted s.mul.seq)) ∧
    (s.int.a = BitVec.ofInt 32 minInt → s.int.b = BitVec.ofInt 32 (-1) →
      exec (.div rd rs1 rs2) s = .next (faulted s.int.seq))

/-- 60_exceptions R325: a DIV whose divisor is 0 raises DivideByZeroFault whatever the dividend and the policy, writing neither a
result nor Z nor any register; the Integer unit raises it when the DIV is at the queue head. -/
def Obligations.DivisionByZeroFaults : Prop :=
  ∀ (s : State) (rd rs1 rs2 : Reg), s.int.b = 0#32 →
    let faulted : State := { s with
      status := .faulted
      fault := some { kind := .divideByZeroFault, seq := some s.int.seq, addr := none, cycle := s.clock } }
    exec (.div rd rs1 rs2) s = .next faulted ∧
    (∀ q, s.int.occ = true → s.int.instr = .div rd rs1 rs2 → s.rq = s.int.seq :: q → integer s = .next faulted)

/-- 41_integer_alu R213: the quotient is the dividend over the divisor rounded toward zero, for every pair but a zero divisor and
-2^31 by -1: dividend = quotient * divisor + remainder, the remainder smaller than the divisor and of the dividend's sign. -/
def Obligations.DivisionRoundsTowardZero : Prop :=
  ∀ (s : State) (rd rs1 rs2 : Reg), s.int.b ≠ 0#32 → ¬(s.int.a.toInt = minInt ∧ s.int.b.toInt = -1) →
    ∃ (w : Word) (r : Int),
      exec (.div rd rs1 rs2) s = .next { s with int := { s.int with res := w }, z := decide (w = 0#32) } ∧
      s.int.a.toInt = w.toInt * s.int.b.toInt + r ∧ |r| < |s.int.b.toInt| ∧ (r = 0 ∨ (0 < r ↔ 0 < s.int.a.toInt))

/-- 41_integer_alu R202, R215, R217, R219: AND, OR and XOR complete on every operand, work bit by bit on the 32-bit patterns, and set
Z by the result; they never fault. -/
def Obligations.BitwiseResultsBitByBit : Prop :=
  ∀ (s : State) (rd rs1 rs2 : Reg),
    (∃ w, exec (.and rd rs1 rs2) s = .next { s with int := { s.int with res := w }, z := decide (w = 0#32) } ∧
      ∀ k, w.getLsbD k = (s.int.a.getLsbD k && s.int.b.getLsbD k)) ∧
    (∃ w, exec (.or rd rs1 rs2) s = .next { s with int := { s.int with res := w }, z := decide (w = 0#32) } ∧
      ∀ k, w.getLsbD k = (s.int.a.getLsbD k || s.int.b.getLsbD k)) ∧
    (∃ w, exec (.xor rd rs1 rs2) s = .next { s with int := { s.int with res := w }, z := decide (w = 0#32) } ∧
      ∀ k, w.getLsbD k = (s.int.a.getLsbD k ^^ s.int.b.getLsbD k))

/-- 41_integer_alu R221, R223: CMP sets Z exactly when the operands are equal as integers and writes no result; MOVC's result is its
immediate, and Z says whether that is 0. 44_control R294, R296: in the Integer unit NOP and HALT complete and compute nothing; HALT's
effects at Fetch and at Writeback are `FetchFillsDecodeFromTheSlot`, `WritebackRetiresTheHead` and
`LoneHaltEndsTheRunInThreeTicks`. -/
def Obligations.CompareMoveNopAndHaltResults : Prop :=
  ∀ (s : State) (rd rs1 rs2 : Reg) (imm : Word),
    exec (.cmp rs1 rs2) s = .next { s with z := decide (s.int.a.toInt = s.int.b.toInt) } ∧
    exec (.movc rd imm) s = .next { s with int := { s.int with res := imm }, z := decide (imm.toInt = 0) } ∧
    exec .nop s = .next s ∧ exec .halt s = .next s

/-- 43_load_store R260, R262, R266: LOAD and LDR with an exact address inside the data memory leave the address and the cell it names
in the unit's latch and change nothing else, Z included. -/
def Obligations.LoadReadsTheAddressedCell : Prop :=
  ∀ (s : State) (rd rs1 rs2 : Reg) (imm : Word) (a : Nat), a < s.cfg.dmemSize →
    ((a : Int) = s.ls.a.toInt + imm.toInt →
      exec (.load rd rs1 imm) s = .next { s with ls := { s.ls with ea := (a : Int), res := Memory.read s.dmem a } }) ∧
    ((a : Int) = s.ls.a.toInt + s.ls.b.toInt →
      exec (.ldr rd rs1 rs2) s = .next { s with ls := { s.ls with ea := (a : Int), res := Memory.read s.dmem a } })

/-- 43_load_store R260, R264, R268: STORE and STR with an exact address inside the data memory write the value operand there, leave
every other cell alone, and change nothing else but the latch's address. The canonical form of the memory is an invariant
(`EveryStepKeepsTheMemoryCanonical`). -/
def Obligations.StoreWritesTheAddressedCellOnly : Prop :=
  ∀ (s : State) (rs1 rs2 rs3 : Reg) (imm : Word) (a : Nat), Memory.wf s.dmem → a < s.cfg.dmemSize →
    ((a : Int) = s.ls.b.toInt + imm.toInt →
      ∃ m, exec (.store rs1 rs2 imm) s = .next { s with ls := { s.ls with ea := (a : Int) }, dmem := m } ∧
        Memory.read m a = s.ls.a ∧ ∀ c, c ≠ a → Memory.read m c = Memory.read s.dmem c) ∧
    ((a : Int) = s.ls.b.toInt + s.ls.c.toInt →
      ∃ m, exec (.str rs1 rs2 rs3) s = .next { s with ls := { s.ls with ea := (a : Int) }, dmem := m } ∧
        Memory.read m a = s.ls.a ∧ ∀ c, c ≠ a → Memory.read m c = Memory.read s.dmem c)

/-- 60_exceptions R324, 20_memory R64: an exact address below 0 or at or above DMEM_SIZE raises AddressFault with the instruction's
seq and that address; no cell, no result and no Z changes. The Load/Store unit raises it on the final cycle, wherever its instruction
stands in the queue, and does not hand off. -/
def Obligations.OutOfRangeAddressFaults : Prop :=
  ∀ (s : State) (rd rs1 rs2 rs3 : Reg) (imm : Word),
    let out (v : Int) : Prop := v < 0 ∨ (s.cfg.dmemSize : Int) ≤ v
    let faulted (n : Nat) (v : Int) : State := { s with
      ls := { s.ls with count := n, ea := v }, status := .faulted,
      fault := some { kind := .addressFault, seq := some s.ls.seq, addr := some v, cycle := s.clock } }
    let final (i : Instr) : Prop := s.ls.occ = true ∧ s.ls.st = .busy ∧ s.ls.count = 3 ∧ s.ls.instr = i
    (out (s.ls.a.toInt + imm.toInt) →
      exec (.load rd rs1 imm) s = .next (faulted s.ls.count (s.ls.a.toInt + imm.toInt)) ∧
      (final (.load rd rs1 imm) → loadStore s = .next (faulted 4 (s.ls.a.toInt + imm.toInt)))) ∧
    (out (s.ls.b.toInt + imm.toInt) →
      exec (.store rs1 rs2 imm) s = .next (faulted s.ls.count (s.ls.b.toInt + imm.toInt)) ∧
      (final (.store rs1 rs2 imm) → loadStore s = .next (faulted 4 (s.ls.b.toInt + imm.toInt)))) ∧
    (out (s.ls.a.toInt + s.ls.b.toInt) →
      exec (.ldr rd rs1 rs2) s = .next (faulted s.ls.count (s.ls.a.toInt + s.ls.b.toInt)) ∧
      (final (.ldr rd rs1 rs2) → loadStore s = .next (faulted 4 (s.ls.a.toInt + s.ls.b.toInt)))) ∧
    (out (s.ls.b.toInt + s.ls.c.toInt) →
      exec (.str rs1 rs2 rs3) s = .next (faulted s.ls.count (s.ls.b.toInt + s.ls.c.toInt)) ∧
      (final (.str rs1 rs2 rs3) → loadStore s = .next (faulted 4 (s.ls.b.toInt + s.ls.c.toInt))))

/-- 40_pipeline R170, R171, R172 and 44_control R290, R292: a taken branch sends pc to its own address plus its immediate, suppresses
one fetch, enables fetching and clears the Decode latch, touching no unit, Writeback, RQ or SB; a branch not taken computes
nothing. That the flushed Decode latch keeps its other fields, the phase among them, is the model's choice (log 13). -/
def Obligations.BranchRedirectsWhenTaken : Prop :=
  ∀ (s : State) (imm : Word),
    let taken : State := { s with
      pc := s.int.pc + imm.toInt, redirect := true, fetchEn := true, d := { s.d with occ := false } }
    (s.z = true → exec (.bz imm) s = .next taken) ∧ (s.z = false → exec (.bz imm) s = .next s) ∧
    (s.z = false → exec (.bnz imm) s = .next taken) ∧ (s.z = true → exec (.bnz imm) s = .next s)

/-- 10_state R22, R26 and 20_memory R70: whatever an instruction computes, it completes; it changes no register, no scoreboard bit, no
queue, no counter, no Writeback latch, no table and no parameter; only a branch changes pc, redirect, fetch_en or the Decode latch,
only the opcodes of R26 change Z, only a store changes memory, and only at the address it computes; another unit's latch is never
changed. -/
def Obligations.ComputingLeavesTheRestUnchanged : Prop :=
  ∀ (i : Instr) (s : State), ∃ t, exec i s = .next t ∧
    t.x = s.x ∧ t.sb = s.sb ∧ t.rq = s.rq ∧ t.clock = s.clock ∧ t.retired = s.retired ∧ t.wb = s.wb ∧ t.f = s.f ∧
    t.code = s.code ∧ t.cfg = s.cfg ∧
    (isBranch i = false → t.pc = s.pc ∧ t.redirect = s.redirect ∧ t.fetchEn = s.fetchEn ∧ t.d = s.d) ∧
    (writesZ i = false → t.z = s.z) ∧
    (∀ u, u ≠ unitOf i → t.unit u = s.unit u) ∧
    (storedAddress i s.ls = none → t.dmem = s.dmem) ∧
    (∀ ea, storedAddress i s.ls = some ea → ∀ a : Nat, (a : Int) ≠ ea → Memory.read t.dmem a = Memory.read s.dmem a) ∧
    (t.status = s.status ∧ t.fault = s.fault ∨ t.status = .faulted ∧ t.z = s.z ∧ t.dmem = s.dmem)

/-! ### The stages -/

/-- 40_pipeline R125, R126, R127: with the redirect flag set, Fetch clears it and does nothing else; otherwise, with fetching disabled
or with the Decode latch still occupied, Fetch does nothing. -/
def Obligations.FetchIsSuppressedDisabledOrHeld : Prop :=
  ∀ s : State,
    (s.redirect = true → fetch s = .next { s with redirect := false }) ∧
    (s.redirect = false → s.fetchEn = false → fetch s = .next s) ∧
    (s.redirect = false → s.d.occ = true → fetch s = .next s)

/-- 40_pipeline R128, R129: Fetch copies slot k into the Decode latch, unchecked and valid, with the slot's index as seq and the pc as
its address, keeps a display copy, advances pc by 4, and disables fetching exactly for HALT. The fields of the new Decode latch not
named here are free (log 7); that the Fetch latch's other fields stay as they are is the model's choice (log 8). -/
def Obligations.FetchFillsDecodeFromTheSlot : Prop :=
  ∀ (s : State) (k : Nat) (i : Instr), s.redirect = false → s.fetchEn = true → s.d.occ = false → s.code[k]? = some i →
    s.pc = s.cfg.codeBase + 4 * (k : Int) →
    ∃ d : DecodeLatch, d.instr = i ∧ d.seq = k ∧ d.pc = s.pc ∧ d.occ = true ∧ d.invalid = false ∧ d.phase = .check ∧
      fetch s = .next { s with
        f := { s.f with instr := i, seq := k, pc := s.pc }, d := d, pc := s.pc + 4, fetchEn := decide (i ≠ .halt) }

/-- 40_pipeline R130, 10_state R25: at a pc that names no slot (misaligned, below the base, or past the table) Fetch places the
invalid-fetch marker, disables fetching and leaves pc unchanged. -/
def Obligations.InvalidFetchPlacesTheMarker : Prop :=
  ∀ s : State, s.redirect = false → s.fetchEn = true → s.d.occ = false →
    (∀ k : Nat, k < s.code.length → s.pc ≠ s.cfg.codeBase + 4 * (k : Int)) →
    ∃ d : DecodeLatch, d.occ = true ∧ d.invalid = true ∧ d.pc = s.pc ∧ fetch s = .next { s with d := d, fetchEn := false }

/-- 40_pipeline R131, R132, 60_exceptions R327: an empty Decode latch does nothing; a marker raises FetchFault with its own pc as the
address and no seq when RQ is empty, and is held unchanged otherwise. -/
def Obligations.MarkerFaultsOnlyWithAnEmptyQueue : Prop :=
  ∀ s : State,
    (s.d.occ = false → decodeStage s = .next s) ∧
    (s.d.occ = true → s.d.invalid = true → s.rq = [] → decodeStage s = .next { s with
      status := .faulted, fault := some { kind := .fetchFault, seq := none, addr := some s.d.pc, cycle := s.clock } }) ∧
    (s.d.occ = true → s.d.invalid = true → s.rq ≠ [] → decodeStage s = .next s)

/-- 40_pipeline R133, R134: while a source or the destination of an unchecked instruction is reserved, Decode changes nothing. -/
def Obligations.ReservedRegisterStallsDispatch : Prop :=
  ∀ (s : State) (r : Reg), s.d.occ = true → s.d.invalid = false → s.d.phase = .check →
    (r ∈ sourcesOf s.d.instr ∨ destOf s.d.instr = some r) → s.sb[r] = true → decodeStage s = .next s

/-- 40_pipeline R136, R137: an instruction that has passed its check waits for an occupied unit in phase AWAIT_UNIT with its operands
read; the wait touches nothing but the Decode latch, SB included, and the next tick reads no operand again. -/
def Obligations.BusyUnitStallsWithoutReserving : Prop :=
  ∀ s : State, s.d.occ = true → s.d.invalid = false → (s.unit (unitOf s.d.instr)).occ = true →
    (s.d.phase = .awaitUnit → decodeStage s = .next s) ∧
    (s.d.phase = .check → (∀ r ∈ hazardsOf s.d.instr, s.sb[r] = false) →
      ∃ d : DecodeLatch, decodeStage s = .next { s with d := d } ∧ d.phase = .awaitUnit ∧ d.occ = true ∧ d.invalid = false ∧
        d.instr = s.d.instr ∧ d.seq = s.d.seq ∧ d.pc = s.d.pc ∧
        (∀ r, (sourcesOf s.d.instr)[0]? = some r → d.a = s.x[r]) ∧ (∀ r, (sourcesOf s.d.instr)[1]? = some r → d.b = s.x[r]) ∧
        (∀ r, (sourcesOf s.d.instr)[2]? = some r → d.c = s.x[r]))

/-- 40_pipeline R135, R136, R138 to R142: a valid instruction whose unit is empty and that has passed its hazard check, in this tick or
earlier, enters the unit BUSY with count 0. In phase CHECK, with its hazard registers free, its operands are x[rs1], x[rs2] and x[rs3]
now, where its opcode has those sources; in phase AWAIT_UNIT they are the ones read earlier, not read again, and SB is not consulted.
Exactly its destination is reserved, its seq joins the queue's tail, and the Decode latch is cleared. With RQ at its capacity of 4 it
raises InternalFault instead. -/
def Obligations.DispatchReadsReservesAndQueues : Prop :=
  ∀ s : State, s.d.occ = true → s.d.invalid = false →
    (s.d.phase = .check → ∀ r ∈ hazardsOf s.d.instr, s.sb[r] = false) →
    (s.unit (unitOf s.d.instr)).occ = false →
    (s.rq.length = 4 → ∃ t, decodeStage s = .next t ∧ t.status = .faulted ∧ t.rq = s.rq ∧ t.sb = s.sb ∧
      t.fault = some { kind := .internalFault, seq := some s.d.seq, addr := none, cycle := s.clock }) ∧
    (s.rq.length ≠ 4 → ∃ t, decodeStage s = .next t ∧
      (t.unit (unitOf s.d.instr)).occ = true ∧ (t.unit (unitOf s.d.instr)).st = .busy ∧
      (t.unit (unitOf s.d.instr)).count = 0 ∧ (t.unit (unitOf s.d.instr)).instr = s.d.instr ∧
      (t.unit (unitOf s.d.instr)).seq = s.d.seq ∧ (t.unit (unitOf s.d.instr)).pc = s.d.pc ∧
      (s.d.phase = .check → (t.unit (unitOf s.d.instr)).operandsFrom s.x) ∧
      (s.d.phase = .awaitUnit → (t.unit (unitOf s.d.instr)).a = s.d.a ∧ (t.unit (unitOf s.d.instr)).b = s.d.b ∧
        (t.unit (unitOf s.d.instr)).c = s.d.c) ∧
      (∀ u, u ≠ unitOf s.d.instr → t.unit u = s.unit u) ∧
      (∀ r : Reg, t.sb[r] = (s.sb[r] || decide (destOf s.d.instr = some r))) ∧
      t.rq = s.rq ++ [s.d.seq] ∧ t.d.occ = false ∧
      t.x = s.x ∧ t.z = s.z ∧ t.pc = s.pc ∧ t.dmem = s.dmem ∧ t.wb = s.wb ∧ t.status = s.status ∧ t.fault = s.fault ∧
      t.fetchEn = s.fetchEn ∧ t.redirect = s.redirect ∧ t.clock = s.clock ∧ t.retired = s.retired)

/-- 40_pipeline section 4: the hand-off of a unit, in all four cases of the primitive. That the emptied unit latch keeps its other
fields is the model's choice (log 13). -/
def Obligations.HandOffFollowsTheQueueHead : Prop :=
  ∀ (u : UnitId) (s : State),
    let internal : State := { s with
      status := .faulted
      fault := some { kind := .internalFault, seq := some (s.unit u).seq, addr := none, cycle := s.clock } }
    (s.rq = [] → handOff u s = .next internal) ∧
    (∀ h q, s.rq = h :: q → h ≠ (s.unit u).seq → handOff u s = .next s) ∧
    (∀ q, s.rq = (s.unit u).seq :: q → s.wb.occ = true → handOff u s = .next internal) ∧
    (∀ q, s.rq = (s.unit u).seq :: q → s.wb.occ = false →
      handOff u s = .next ({ s with wb := s.unit u }.setUnit u { s.unit u with occ := false, st := .free }))

/-- 40_pipeline R165, R166: Writeback does nothing when empty; fails its check when its instruction is not the head; otherwise it
writes and releases exactly the destination of an opcode in WRITES_RD, pops the queue, counts one retirement, empties its latch, and
ends the run exactly for HALT. That the emptied Writeback latch keeps its other fields is the model's choice (log 13). -/
def Obligations.WritebackRetiresTheHead : Prop :=
  ∀ s : State,
    (s.wb.occ = false → writeback s = .next s) ∧
    (s.wb.occ = true → s.rq.head? ≠ some s.wb.seq → writeback s = .next { s with
      status := .faulted
      fault := some { kind := .internalFault, seq := some s.wb.seq, addr := none, cycle := s.clock } }) ∧
    (∀ q, s.wb.occ = true → s.rq = s.wb.seq :: q → ∃ x sb,
      writeback s = .next { s with
        x := x, sb := sb, rq := q, retired := s.retired + 1#64, wb := { s.wb with occ := false },
        status := if s.wb.instr = .halt then .halted else s.status } ∧
      ∀ r : Reg, (destOf s.wb.instr = some r → x[r] = s.wb.res ∧ sb[r] = false) ∧
        (destOf s.wb.instr ≠ some r → x[r] = s.x[r] ∧ sb[r] = s.sb[r]))

/-- 40_pipeline R155, R156, R157: an empty Multiplier does nothing; before its final cycle it only counts; on its final cycle it
computes and, unless that faults, is DONE and tries to hand off, at the head or not, so a MUL that is not at the head has written its
product and Z there; once DONE it only tries to hand off, and while it is not at the head it changes nothing. -/
def Obligations.MultiplierComputesOnItsThirdCycle : Prop :=
  ∀ s : State, s.status = .running →
    (s.mul.occ = false → multiply s = .next s) ∧
    (s.mul.occ = true → s.mul.st = .busy → s.mul.count ≠ 2 →
      multiply s = .next { s with mul := { s.mul with count := s.mul.count + 1 } }) ∧
    (∀ t, s.mul.occ = true → s.mul.st = .busy → s.mul.count = 2 →
      exec s.mul.instr { s with mul := { s.mul with count := 3 } } = .next t →
      (t.status ≠ .running → multiply s = .next t) ∧
      (t.status = .running → multiply s = handOff .mul { t with mul := { t.mul with st := .done } })) ∧
    (∀ (rd rs1 rs2 : Reg) (w : Word) (h : Nat) (q : List Nat), s.mul.occ = true → s.mul.st = .busy → s.mul.count = 2 →
      s.mul.instr = .mul rd rs1 rs2 → w.toInt = s.mul.a.toInt * s.mul.b.toInt → s.rq = h :: q → h ≠ s.mul.seq →
      multiply s = .next { s with mul := { s.mul with count := 3, res := w, st := .done }, z := decide (w = 0#32) }) ∧
    (s.mul.occ = true → s.mul.st = .done → multiply s = handOff .mul s) ∧
    (∀ h q, s.mul.occ = true → s.mul.st = .done → s.rq = h :: q → h ≠ s.mul.seq → multiply s = .next s)

/-- 40_pipeline R160, R161, R162: an empty Load/Store unit does nothing; before its final cycle it only counts; on its final cycle it
accesses memory and, unless that faults, is DONE and tries to hand off, at the head or not, so a store that is not at the head has
written its cell there and a load holds its result; once DONE it only tries to hand off, and while it is not at the head it changes
nothing. -/
def Obligations.LoadStoreAccessesOnItsFourthCycle : Prop :=
  ∀ s : State, s.status = .running →
    (s.ls.occ = false → loadStore s = .next s) ∧
    (s.ls.occ = true → s.ls.st = .busy → s.ls.count ≠ 3 →
      loadStore s = .next { s with ls := { s.ls with count := s.ls.count + 1 } }) ∧
    (∀ t, s.ls.occ = true → s.ls.st = .busy → s.ls.count = 3 →
      exec s.ls.instr { s with ls := { s.ls with count := 4 } } = .next t →
      (t.status ≠ .running → loadStore s = .next t) ∧
      (t.status = .running → loadStore s = handOff .ls { t with ls := { t.ls with st := .done } })) ∧
    (∀ (rs1 rs2 : Reg) (imm : Word) (a h : Nat) (q : List Nat), s.ls.occ = true → s.ls.st = .busy → s.ls.count = 3 →
      s.ls.instr = .store rs1 rs2 imm → (a : Int) = s.ls.b.toInt + imm.toInt → a < s.cfg.dmemSize → s.rq = h :: q →
      h ≠ s.ls.seq →
      loadStore s = .next { s with
        ls := { s.ls with count := 4, ea := (a : Int), st := .done }, dmem := Memory.write s.dmem a s.ls.a }) ∧
    (∀ (rd rs1 : Reg) (imm : Word) (a h : Nat) (q : List Nat), s.ls.occ = true → s.ls.st = .busy → s.ls.count = 3 →
      s.ls.instr = .load rd rs1 imm → (a : Int) = s.ls.a.toInt + imm.toInt → a < s.cfg.dmemSize → s.rq = h :: q →
      h ≠ s.ls.seq →
      loadStore s = .next { s with
        ls := { s.ls with count := 4, ea := (a : Int), res := Memory.read s.dmem a, st := .done } }) ∧
    (s.ls.occ = true → s.ls.st = .done → loadStore s = handOff .ls s) ∧
    (∀ h q, s.ls.occ = true → s.ls.st = .done → s.rq = h :: q → h ≠ s.ls.seq → loadStore s = .next s)

/-- 40_pipeline R150, R151: an empty Integer unit does nothing; with no queue its check fails; an instruction that is not at the queue
head is held with nothing computed; at the head it computes, and either a fault ends the tick with no hand-off, or it hands off in the
same tick. (`HandOffFollowsTheQueueHead` has the hand-off's own check.) That the emptied Integer latch keeps its other fields is the
model's choice (log 13), and that the count of the copy in Writeback has not been advanced is its inference (log 15). -/
def Obligations.IntegerUnitComputesOnlyAtTheHead : Prop :=
  ∀ s : State,
    (s.int.occ = false → integer s = .next s) ∧
    (s.int.occ = true → s.rq = [] → integer s = .next { s with
      status := .faulted
      fault := some { kind := .internalFault, seq := some s.int.seq, addr := none, cycle := s.clock } }) ∧
    (∀ h q, s.int.occ = true → s.rq = h :: q → h ≠ s.int.seq → integer s = .next s) ∧
    (∀ q t, s.int.occ = true → s.rq = s.int.seq :: q → exec s.int.instr s = .next t →
      (t.status ≠ .running → integer s = .next t) ∧
      (t.status = .running → s.wb.occ = false →
        integer s = .next { t with
          wb := { t.int with st := .done }, int := { t.int with occ := false, st := .free } }))

/-! ### Rules about every tick -/

/-- 10_state R29, R38, R39 and 20_memory R74: every state steps to a next state; a RUNNING core counts one tick, any other core keeps
every component, and the instruction table and the parameters never change. -/
def Obligations.EveryTickAnswersAndCounts : Prop :=
  ∀ s : State, ∃ t, step s = .next t ∧ t.code = s.code ∧ t.cfg = s.cfg ∧
    (s.status = .running → t.clock = s.clock + 1#64) ∧ (s.status ≠ .running → t = s)

/-- 10_state R22: in a tick a register changes only by the retirement of an instruction in Writeback that has it as destination, and
then to that instruction's result. -/
def Obligations.RegistersChangeOnlyByRetirement : Prop :=
  ∀ (s t : State) (r : Reg), step s = .next t → t.x[r] ≠ s.x[r] →
    s.wb.occ = true ∧ destOf s.wb.instr = some r ∧ t.x[r] = s.wb.res ∧ t.retired = s.retired + 1#64

/-- 10_state R24: in a tick pc stays, or advances by 4, or goes to the address of the branch in the Integer unit plus its
immediate. -/
def Obligations.PcChangesOnlyByFetchOrBranch : Prop :=
  ∀ s t : State, s.routed → step s = .next t →
    t.pc = s.pc ∨ t.pc = s.pc + 4 ∨
      (s.int.occ = true ∧ ∃ imm : Word, (s.int.instr = .bz imm ∨ s.int.instr = .bnz imm) ∧ t.pc = s.int.pc + imm.toInt)

/-- 10_state R27: in a tick a scoreboard bit is set only for the destination of the instruction in Decode, and cleared only for the
destination of the instruction in Writeback. -/
def Obligations.ScoreboardChangesOnlyByDispatchAndRetirement : Prop :=
  ∀ (s t : State) (r : Reg), step s = .next t →
    (s.sb[r] = false → t.sb[r] = true →
      s.d.occ = true ∧ s.d.invalid = false ∧ destOf s.d.instr = some r ∧ t.rq.getLast? = some s.d.seq) ∧
    (s.sb[r] = true → t.sb[r] = false →
      s.wb.occ = true ∧ destOf s.wb.instr = some r ∧ t.retired = s.retired + 1#64)

/-- 10_state R28, R30, 40_pipeline R180, R181: in a tick the queue loses at most its head, exactly when Writeback retires that
instruction and it is counted, and gains at most one entry at its tail, the seq of the instruction in Decode. -/
def Obligations.QueuePopsAtRetirementAndGrowsAtDispatch : Prop :=
  ∀ s t : State, s.status = .running → step s = .next t →
    ∃ q, ((q = s.rq ∧ t.retired = s.retired) ∨
        (s.wb.occ = true ∧ s.rq = s.wb.seq :: q ∧ t.retired = s.retired + 1#64)) ∧
      (t.rq = q ∨ (s.d.occ = true ∧ s.d.invalid = false ∧ t.rq = q ++ [s.d.seq]))

/-- 10_state R26: in a tick Z changes only by an instruction of R26's list that is in the Integer unit at the queue head, the one
retiring in the tick set aside, or by a MUL on its final cycle. -/
def Obligations.ZeroFlagChangesOnlyByItsWriters : Prop :=
  ∀ s t : State, s.routed → step s = .next t → t.z ≠ s.z →
    (s.int.occ = true ∧ writesZ s.int.instr = true ∧
      (s.rq.head? = some s.int.seq ∨ (s.wb.occ = true ∧ s.rq.tail.head? = some s.int.seq))) ∨
    (s.mul.occ = true ∧ s.mul.st = .busy ∧ s.mul.count = 2)

/-- 20_memory R70, R63: in a tick the data memory changes only by a STORE or STR on the Load/Store unit's final cycle, which writes
its value operand at its exact address, inside the data memory. -/
def Obligations.MemoryChangesOnlyByStores : Prop :=
  ∀ s t : State, s.routed → step s = .next t → t.dmem ≠ s.dmem →
    ∃ ea, s.ls.occ = true ∧ s.ls.st = .busy ∧ s.ls.count = 3 ∧ storedAddress s.ls.instr s.ls = some ea ∧
      0 ≤ ea ∧ ea < s.cfg.dmemSize ∧ t.dmem = Memory.write s.dmem ea.toNat s.ls.a

/-- 60_exceptions R320, R321, R322: a tick that ends FAULTED has recorded a fault of code 2 to 6 with the clock of that tick as cycle;
the seq is there except for FetchFault, the address exactly for AddressFault and FetchFault. A tick that ends otherwise leaves the
record alone. -/
def Obligations.FaultRecordNamesTheFaultingTick : Prop :=
  ∀ s t : State, s.status = .running → step s = .next t →
    (t.status = .faulted → ∃ r, t.fault = some r ∧ r.cycle = t.clock ∧ t.clock = s.clock + 1#64 ∧
      2 ≤ r.kind.number ∧ r.kind.number ≤ 6 ∧ (r.seq.isSome = true ↔ r.kind ≠ .fetchFault) ∧
      (r.addr.isSome = true ↔ (r.kind = .addressFault ∨ r.kind = .fetchFault))) ∧
    (t.status ≠ .faulted → t.fault = s.fault)

/-- 10_state R38, 40_pipeline R141: every step keeps the fault record present exactly when the core is FAULTED, and keeps each unit
holding only instructions routed to it. -/
def Obligations.EveryStepKeepsFaultRecordAndRouting : Prop :=
  ∀ s t : State, step s = .next t → (s.faultMatches → t.faultMatches) ∧ (s.routed → t.routed)

/-- 20_memory R62, R64, R70: every step keeps the memory in its canonical form and inside [0, DMEM_SIZE). -/
def Obligations.EveryStepKeepsTheMemoryCanonical : Prop :=
  ∀ s t : State, s.memoryOk → step s = .next t → t.memoryOk

/-! ### Timing -/

/-- 40_pipeline R184, 41_integer_alu R205: an ADD dispatched in the first tick with nothing older in flight, while Fetch and Decode go
on. After two ticks it is in Writeback with the exact sum, where that fits, and Z says whether the sum is 0, with no register written
yet; in the third it has retired: x[rd] holds the sum and no other register and no memory cell has changed. What younger instructions
do in the third tick (Z, SB, a fault of their own) is left to them. -/
def Obligations.LoneAddRetiresInThreeTicks : Prop :=
  ∀ (s : State) (rd rs1 rs2 : Reg) (w : Word), s.startsWith (.add rd rs1 rs2) →
    w.toInt = s.x[rs1].toInt + s.x[rs2].toInt →
    (∃ t, ticks 1 s = .next t ∧ t.status = .running ∧ t.int.occ = true ∧ t.int.instr = .add rd rs1 rs2 ∧ t.int.seq = s.d.seq ∧
      t.rq = [s.d.seq] ∧ t.sb[rd] = true ∧ t.x = s.x ∧ t.z = s.z) ∧
    (∃ t, ticks 2 s = .next t ∧ t.status = .running ∧ t.wb.occ = true ∧ t.wb.instr = .add rd rs1 rs2 ∧ t.wb.seq = s.d.seq ∧
      t.wb.res = w ∧ t.z = decide (w = 0#32) ∧ t.sb[rd] = true ∧ t.x = s.x ∧ t.retired = s.retired) ∧
    ∃ t, ticks 3 s = .next t ∧ t.x = s.x.set rd w ∧ t.retired = s.retired + 1#64 ∧ t.clock = s.clock + 3#64 ∧ t.dmem = s.dmem

/-- 40_pipeline R184, 42_multiply R240: a MUL dispatched in the first tick with nothing older in flight, while Fetch and Decode go on.
After three ticks nothing has been computed; after four it is in Writeback with the exact product, where that fits, and Z says whether
the product is 0; in the fifth it has retired: x[rd] holds the product and no other register and no memory cell has changed. -/
def Obligations.LoneMulRetiresInFiveTicks : Prop :=
  ∀ (s : State) (rd rs1 rs2 : Reg) (w : Word), s.startsWith (.mul rd rs1 rs2) →
    w.toInt = s.x[rs1].toInt * s.x[rs2].toInt →
    (∃ t, ticks 3 s = .next t ∧ t.status = .running ∧ t.mul.occ = true ∧ t.mul.instr = .mul rd rs1 rs2 ∧ t.mul.seq = s.d.seq ∧
      t.mul.st = .busy ∧ t.mul.count = 2 ∧ t.x = s.x ∧ t.z = s.z ∧ t.retired = s.retired) ∧
    (∃ t, ticks 4 s = .next t ∧ t.status = .running ∧ t.wb.occ = true ∧ t.wb.instr = .mul rd rs1 rs2 ∧ t.wb.seq = s.d.seq ∧
      t.wb.res = w ∧ t.z = decide (w = 0#32) ∧ t.sb[rd] = true ∧ t.x = s.x ∧ t.retired = s.retired) ∧
    ∃ t, ticks 5 s = .next t ∧ t.x = s.x.set rd w ∧ t.retired = s.retired + 1#64 ∧ t.clock = s.clock + 5#64 ∧ t.dmem = s.dmem

/-- 40_pipeline R184, 43_load_store R261, R262: a LOAD in bounds dispatched in the first tick with nothing older in flight, while Fetch
and Decode go on. After four ticks nothing has been accessed; after five it is in Writeback with the addressed cell, and Z is as before
unless a younger MUL computed in that tick. That MUL can also end the run there by an overflow; otherwise the LOAD has retired in the
sixth tick: x[rd] holds the cell and no other register and no memory cell has changed. -/
def Obligations.LoneLoadRetiresInSixTicks : Prop :=
  ∀ (s : State) (rd rs1 : Reg) (imm : Word) (a : Nat), s.startsWith (.load rd rs1 imm) →
    (a : Int) = s.x[rs1].toInt + imm.toInt → a < s.cfg.dmemSize →
    (∃ t, ticks 4 s = .next t ∧ t.status = .running ∧ t.ls.occ = true ∧ t.ls.instr = .load rd rs1 imm ∧ t.ls.seq = s.d.seq ∧
      t.ls.st = .busy ∧ t.ls.count = 3 ∧ t.x = s.x ∧ t.z = s.z ∧ t.retired = s.retired) ∧
    ∃ t, ticks 5 s = .next t ∧ t.wb.occ = true ∧ t.wb.instr = .load rd rs1 imm ∧ t.wb.seq = s.d.seq ∧
      t.wb.res = Memory.read s.dmem a ∧ t.sb[rd] = true ∧ t.x = s.x ∧ t.dmem = s.dmem ∧ t.retired = s.retired ∧
      (t.mul.occ = false → t.z = s.z) ∧
      (t.status = .running ∨ ∃ r, t.fault = some r ∧ r.kind = .overflowFault ∧ r.seq = some t.mul.seq ∧ t.mul.occ = true) ∧
      (t.status = .running → ∃ u, ticks 6 s = .next u ∧ u.x = s.x.set rd (Memory.read s.dmem a) ∧
        u.retired = s.retired + 1#64 ∧ u.clock = s.clock + 6#64 ∧ u.dmem = s.dmem)

/-- 40_pipeline R184, 43_load_store R261, R268, 20_memory R72: an STR in bounds dispatched in the first tick with nothing older in
flight, while Fetch and Decode go on. After four ticks no cell has changed; after five it has written its value operand, before it
retires, and stands in Writeback; Z is as before unless a younger MUL computed in that tick. That MUL can also end the run there by an
overflow, and the written cell stays; otherwise the STR has retired in the sixth tick, and no register has changed. -/
def Obligations.LoneStrWritesBeforeItRetires : Prop :=
  ∀ (s : State) (rs1 rs2 rs3 : Reg) (a : Nat), s.startsWith (.str rs1 rs2 rs3) →
    (a : Int) = s.x[rs2].toInt + s.x[rs3].toInt → a < s.cfg.dmemSize →
    (∃ t, ticks 4 s = .next t ∧ t.status = .running ∧ t.ls.occ = true ∧ t.ls.instr = .str rs1 rs2 rs3 ∧ t.ls.seq = s.d.seq ∧
      t.ls.st = .busy ∧ t.ls.count = 3 ∧ t.dmem = s.dmem ∧ t.x = s.x ∧ t.z = s.z ∧ t.retired = s.retired) ∧
    ∃ t, ticks 5 s = .next t ∧ t.wb.occ = true ∧ t.wb.instr = .str rs1 rs2 rs3 ∧ t.wb.seq = s.d.seq ∧
      t.dmem = Memory.write s.dmem a s.x[rs1] ∧ t.x = s.x ∧ t.retired = s.retired ∧
      (t.mul.occ = false → t.z = s.z) ∧
      (t.status = .running ∨ ∃ r, t.fault = some r ∧ r.kind = .overflowFault ∧ r.seq = some t.mul.seq ∧ t.mul.occ = true) ∧
      (t.status = .running → ∃ u, ticks 6 s = .next u ∧ u.dmem = Memory.write s.dmem a s.x[rs1] ∧ u.x = s.x ∧
        u.retired = s.retired + 1#64 ∧ u.clock = s.clock + 6#64)

/-- 44_control R296, 40_pipeline R166, R184: a HALT alone in the core retires in the third tick: it is counted, the core is HALTED, and
no register, flag, memory cell or scoreboard bit has changed. -/
def Obligations.LoneHaltEndsTheRunInThreeTicks : Prop :=
  ∀ s : State, s.alone .halt →
    ∃ t, ticks 3 s = .next t ∧ t.status = .halted ∧ t.retired = s.retired + 1#64 ∧ t.clock = s.clock + 3#64 ∧ t.rq = [] ∧
      t.x = s.x ∧ t.z = s.z ∧ t.sb = s.sb ∧ t.dmem = s.dmem ∧ t.pc = s.pc ∧ t.fault = s.fault

/-- 40_pipeline R121, R188, 70_reset R365, R366: a register that retires in a tick is free and readable for Decode in the same tick. A
valid instruction of any opcode that waits for it, as a source or as the destination, and for no other register, has passed its hazard
check when the tick ends, with its operands read from the register file as Writeback left it: it is in its unit and last in the queue,
or it waits for its unit in phase AWAIT_UNIT. The tick must not have ended in a fault before Decode, nor a branch have flushed it. -/
def Obligations.RetiredRegisterIsReadableInTheSameTick : Prop :=
  ∀ (s t : State) (r : Reg), s.Inv → s.wb.occ = true → destOf s.wb.instr = some r →
    s.d.occ = true → s.d.invalid = false → s.d.phase = .check → r ∈ hazardsOf s.d.instr →
    (∀ p ∈ hazardsOf s.d.instr, p ≠ r → s.sb[p] = false) → (s.int.occ = true → isBranch s.int.instr = false) →
    step s = .next t → t.status = .running →
    t.x = s.x.set r s.wb.res ∧
    ((t.rq.getLast? = some s.d.seq ∧ (t.unit (unitOf s.d.instr)).occ = true ∧
        (t.unit (unitOf s.d.instr)).instr = s.d.instr ∧ (t.unit (unitOf s.d.instr)).seq = s.d.seq ∧
        (t.unit (unitOf s.d.instr)).operandsFrom t.x ∧ (∀ d, destOf s.d.instr = some d → t.sb[d] = true)) ∨
      (t.d.occ = true ∧ t.d.invalid = false ∧ t.d.phase = .awaitUnit ∧ t.d.instr = s.d.instr ∧ t.d.seq = s.d.seq ∧
        t.d.operandsFrom t.x ∧ t.sb[r] = false ∧ (t.unit (unitOf s.d.instr)).occ = true))

/-- 70_reset R372 point 1, 40_pipeline R156: in a core that meets the invariant, a MUL on its final cycle writes Z before the older BZ
reads it in the same tick. The BZ is at the queue head, or becomes it because Writeback retires in that tick (program P6, tick 10); the
Decode latch and Fetch are in any state, and the Load/Store unit makes no access out of bounds in that tick. The BZ is taken exactly
when the product is 0, and only then is the Decode latch flushed. -/
def Obligations.ShadowMulDecidesTheOlderBranch : Prop :=
  ∀ (s : State) (rd rs1 rs2 : Reg) (imm w : Word) (q : List Nat), s.Inv → s.int.occ = true → s.int.instr = .bz imm →
    ((s.wb.occ = false ∧ s.rq = s.int.seq :: q) ∨ (s.wb.occ = true ∧ s.rq = s.wb.seq :: s.int.seq :: q)) →
    s.mul.occ = true → s.mul.st = .busy → s.mul.count = 2 → s.mul.instr = .mul rd rs1 rs2 →
    w.toInt = s.mul.a.toInt * s.mul.b.toInt →
    (∀ ea, s.ls.occ = true → s.ls.count = 3 → accessAddress s.ls.instr s.ls = some ea → 0 ≤ ea ∧ ea < s.cfg.dmemSize) →
    ∃ t, step s = .next t ∧ t.status = .running ∧ t.z = decide (w = 0#32) ∧ t.mul.occ = true ∧ t.mul.st = .done ∧ t.mul.res = w ∧
      t.wb.occ = true ∧ t.wb.instr = .bz imm ∧ t.wb.seq = s.int.seq ∧
      (w = 0#32 → t.pc = s.int.pc + imm.toInt ∧ t.fetchEn = true ∧ t.d.occ = false) ∧
      (w ≠ 0#32 → (t.pc = s.pc ∨ t.pc = s.pc + 4) ∧
        (s.d.occ = true → s.d.invalid = true → t.d = s.d) ∧
        (s.d.occ = true → s.d.invalid = false → (t.d.occ = true ∧ t.d.seq = s.d.seq) ∨ t.rq.getLast? = some s.d.seq))

/-! ### Headline results -/

/-- 10_state R43, 40_pipeline R185 to R187: the pipeline invariant is kept by every tick that leaves the core RUNNING, from every state
that meets it. -/
def Obligations.EveryTickKeepsThePipelineInvariant : Prop :=
  ∀ s t : State, s.Inv → step s = .next t → t.status = .running → t.Inv

/-- 60_exceptions R328, 40_pipeline R182: in a core that meets the invariant no internal check fires, and the queue holds at most four
entries. -/
def Obligations.InternalFaultsAreUnreachable : Prop :=
  ∀ s t : State, s.Inv → step s = .next t → s.rq.length ≤ 4 ∧ ∀ r, t.fault = some r → r.kind ≠ .internalFault

/-- 40_pipeline R187: when HALT retires, no instruction is in flight, the queue is empty and the Decode latch is empty. -/
def Obligations.HaltRetiresAlone : Prop :=
  ∀ s t : State, s.Inv → step s = .next t → t.status = .halted →
    s.wb.instr = .halt ∧ t.rq = [] ∧ t.d.occ = false ∧ t.int.occ = false ∧ t.mul.occ = false ∧ t.ls.occ = false ∧ t.wb.occ = false

/-- 40_pipeline R186: a RUNNING core with a non-empty queue retires its head within five ticks, unless the run ends first. -/
def Obligations.HeadRetiresWithinFiveTicks : Prop :=
  ∀ s : State, s.Inv → s.rq ≠ [] →
    ∃ n t, n ≤ 5 ∧ ticks n s = .next t ∧ (t.status ≠ .running ∨ t.retired = s.retired + 1#64)

/-- 40_pipeline R186: with an empty queue a RUNNING core dispatches the instruction in Decode, or reports the marker there, or fetches
into Decode. -/
def Obligations.EmptyQueueMakesProgress : Prop :=
  ∀ s : State, s.Inv → s.rq = [] →
    (s.d.occ = true → s.d.invalid = false →
      ∃ t, step s = .next t ∧ t.status = .running ∧ t.rq = [s.d.seq] ∧ (t.unit (unitOf s.d.instr)).instr = s.d.instr) ∧
    (s.d.occ = true → s.d.invalid = true →
      ∃ t r, step s = .next t ∧ t.status = .faulted ∧ t.fault = some r ∧ r.kind = .fetchFault ∧ r.addr = some s.d.pc) ∧
    (s.d.occ = false → ∃ t, step s = .next t ∧ t.status = .running ∧ t.d.occ = true)

/-- 10_state R33: what an empty latch holds besides its status is never read: two states that meet the invariant and differ only there
step to states that differ only there. -/
def Obligations.EmptyLatchContentsAreNeverRead : Prop :=
  ∀ s u t v : State, s.Inv → u.Inv → s.readable = u.readable → step s = .next t → step u = .next v → t.readable = v.readable

/-! ### The driver -/

/-- 60_exceptions R341: a stop request on a RUNNING core sets STOPPED and changes nothing else; on any other core it changes nothing;
a STOPPED core keeps every component. -/
def Obligations.StopRequestChangesOnlyTheStatus : Prop :=
  ∀ s : State, (s.status = .running → stop s = { s with status := .stopped } ∧ step (stop s) = .next (stop s)) ∧
    (s.status ≠ .running → stop s = s)
end

