-- ==== Sys2Proof/Laws/State.lean ====
section
/-! SUPPORT. What each named update of the state does to each field: one lemma per field per update, so that no later proof unfolds
a record update. -/

namespace Sys2Proof.Machine

/-! ### State.raise -/

@[simp] theorem State.raise_cfg (s : State) (k : FaultKind) (q : Option Nat) (a : Option Int) : (s.raise k q a).cfg = s.cfg :=
    rfl
@[simp] theorem State.raise_pc (s : State) (k : FaultKind) (q : Option Nat) (a : Option Int) : (s.raise k q a).pc = s.pc := rfl
@[simp] theorem State.raise_clock (s : State) (k : FaultKind) (q : Option Nat) (a : Option Int) : (s.raise k q a).clock = s.clock :=
    rfl
@[simp] theorem State.raise_retired (s : State) (k : FaultKind) (q : Option Nat) (a : Option Int) : (s.raise k q a).retired = s.retired :=
    rfl
@[simp] theorem State.raise_x (s : State) (k : FaultKind) (q : Option Nat) (a : Option Int) : (s.raise k q a).x = s.x := rfl
@[simp] theorem State.raise_z (s : State) (k : FaultKind) (q : Option Nat) (a : Option Int) : (s.raise k q a).z = s.z := rfl
@[simp] theorem State.raise_sb (s : State) (k : FaultKind) (q : Option Nat) (a : Option Int) : (s.raise k q a).sb = s.sb := rfl
@[simp] theorem State.raise_rq (s : State) (k : FaultKind) (q : Option Nat) (a : Option Int) : (s.raise k q a).rq = s.rq := rfl
@[simp] theorem State.raise_fetchEn (s : State) (k : FaultKind) (q : Option Nat) (a : Option Int) : (s.raise k q a).fetchEn = s.fetchEn :=
    rfl
@[simp] theorem State.raise_redirect (s : State) (k : FaultKind) (q : Option Nat) (a : Option Int) : (s.raise k q a).redirect = s.redirect :=
    rfl
@[simp] theorem State.raise_f (s : State) (k : FaultKind) (q : Option Nat) (a : Option Int) : (s.raise k q a).f = s.f := rfl
@[simp] theorem State.raise_d (s : State) (k : FaultKind) (q : Option Nat) (a : Option Int) : (s.raise k q a).d = s.d := rfl
@[simp] theorem State.raise_int (s : State) (k : FaultKind) (q : Option Nat) (a : Option Int) : (s.raise k q a).int = s.int :=
    rfl
@[simp] theorem State.raise_mul (s : State) (k : FaultKind) (q : Option Nat) (a : Option Int) : (s.raise k q a).mul = s.mul :=
    rfl
@[simp] theorem State.raise_ls (s : State) (k : FaultKind) (q : Option Nat) (a : Option Int) : (s.raise k q a).ls = s.ls := rfl
@[simp] theorem State.raise_wb (s : State) (k : FaultKind) (q : Option Nat) (a : Option Int) : (s.raise k q a).wb = s.wb := rfl
@[simp] theorem State.raise_status (s : State) (k : FaultKind) (q : Option Nat) (a : Option Int) : (s.raise k q a).status = .faulted :=
    rfl
@[simp] theorem State.raise_fault (s : State) (k : FaultKind) (q : Option Nat) (a : Option Int) : (s.raise k q a).fault = some { kind := k, seq := q, addr := a, cycle := s.clock } :=
    rfl
@[simp] theorem State.raise_code (s : State) (k : FaultKind) (q : Option Nat) (a : Option Int) : (s.raise k q a).code = s.code :=
    rfl
@[simp] theorem State.raise_dmem (s : State) (k : FaultKind) (q : Option Nat) (a : Option Int) : (s.raise k q a).dmem = s.dmem :=
    rfl

/-! ### State.writeReg -/

@[simp] theorem State.writeReg_cfg (s : State) (r : Reg) (v : Word) : (s.writeReg r v).cfg = s.cfg := rfl
@[simp] theorem State.writeReg_pc (s : State) (r : Reg) (v : Word) : (s.writeReg r v).pc = s.pc := rfl
@[simp] theorem State.writeReg_clock (s : State) (r : Reg) (v : Word) : (s.writeReg r v).clock = s.clock := rfl
@[simp] theorem State.writeReg_retired (s : State) (r : Reg) (v : Word) : (s.writeReg r v).retired = s.retired := rfl
@[simp] theorem State.writeReg_x (s : State) (r : Reg) (v : Word) : (s.writeReg r v).x = s.x.set r v := rfl
@[simp] theorem State.writeReg_z (s : State) (r : Reg) (v : Word) : (s.writeReg r v).z = s.z := rfl
@[simp] theorem State.writeReg_sb (s : State) (r : Reg) (v : Word) : (s.writeReg r v).sb = s.sb := rfl
@[simp] theorem State.writeReg_rq (s : State) (r : Reg) (v : Word) : (s.writeReg r v).rq = s.rq := rfl
@[simp] theorem State.writeReg_fetchEn (s : State) (r : Reg) (v : Word) : (s.writeReg r v).fetchEn = s.fetchEn := rfl
@[simp] theorem State.writeReg_redirect (s : State) (r : Reg) (v : Word) : (s.writeReg r v).redirect = s.redirect := rfl
@[simp] theorem State.writeReg_f (s : State) (r : Reg) (v : Word) : (s.writeReg r v).f = s.f := rfl
@[simp] theorem State.writeReg_d (s : State) (r : Reg) (v : Word) : (s.writeReg r v).d = s.d := rfl
@[simp] theorem State.writeReg_int (s : State) (r : Reg) (v : Word) : (s.writeReg r v).int = s.int := rfl
@[simp] theorem State.writeReg_mul (s : State) (r : Reg) (v : Word) : (s.writeReg r v).mul = s.mul := rfl
@[simp] theorem State.writeReg_ls (s : State) (r : Reg) (v : Word) : (s.writeReg r v).ls = s.ls := rfl
@[simp] theorem State.writeReg_wb (s : State) (r : Reg) (v : Word) : (s.writeReg r v).wb = s.wb := rfl
@[simp] theorem State.writeReg_status (s : State) (r : Reg) (v : Word) : (s.writeReg r v).status = s.status := rfl
@[simp] theorem State.writeReg_fault (s : State) (r : Reg) (v : Word) : (s.writeReg r v).fault = s.fault := rfl
@[simp] theorem State.writeReg_code (s : State) (r : Reg) (v : Word) : (s.writeReg r v).code = s.code := rfl
@[simp] theorem State.writeReg_dmem (s : State) (r : Reg) (v : Word) : (s.writeReg r v).dmem = s.dmem := rfl

/-! ### State.setBusy -/

@[simp] theorem State.setBusy_cfg (s : State) (r : Reg) (b : Bool) : (s.setBusy r b).cfg = s.cfg := rfl
@[simp] theorem State.setBusy_pc (s : State) (r : Reg) (b : Bool) : (s.setBusy r b).pc = s.pc := rfl
@[simp] theorem State.setBusy_clock (s : State) (r : Reg) (b : Bool) : (s.setBusy r b).clock = s.clock := rfl
@[simp] theorem State.setBusy_retired (s : State) (r : Reg) (b : Bool) : (s.setBusy r b).retired = s.retired := rfl
@[simp] theorem State.setBusy_x (s : State) (r : Reg) (b : Bool) : (s.setBusy r b).x = s.x := rfl
@[simp] theorem State.setBusy_z (s : State) (r : Reg) (b : Bool) : (s.setBusy r b).z = s.z := rfl
@[simp] theorem State.setBusy_sb (s : State) (r : Reg) (b : Bool) : (s.setBusy r b).sb = s.sb.set r b := rfl
@[simp] theorem State.setBusy_rq (s : State) (r : Reg) (b : Bool) : (s.setBusy r b).rq = s.rq := rfl
@[simp] theorem State.setBusy_fetchEn (s : State) (r : Reg) (b : Bool) : (s.setBusy r b).fetchEn = s.fetchEn := rfl
@[simp] theorem State.setBusy_redirect (s : State) (r : Reg) (b : Bool) : (s.setBusy r b).redirect = s.redirect := rfl
@[simp] theorem State.setBusy_f (s : State) (r : Reg) (b : Bool) : (s.setBusy r b).f = s.f := rfl
@[simp] theorem State.setBusy_d (s : State) (r : Reg) (b : Bool) : (s.setBusy r b).d = s.d := rfl
@[simp] theorem State.setBusy_int (s : State) (r : Reg) (b : Bool) : (s.setBusy r b).int = s.int := rfl
@[simp] theorem State.setBusy_mul (s : State) (r : Reg) (b : Bool) : (s.setBusy r b).mul = s.mul := rfl
@[simp] theorem State.setBusy_ls (s : State) (r : Reg) (b : Bool) : (s.setBusy r b).ls = s.ls := rfl
@[simp] theorem State.setBusy_wb (s : State) (r : Reg) (b : Bool) : (s.setBusy r b).wb = s.wb := rfl
@[simp] theorem State.setBusy_status (s : State) (r : Reg) (b : Bool) : (s.setBusy r b).status = s.status := rfl
@[simp] theorem State.setBusy_fault (s : State) (r : Reg) (b : Bool) : (s.setBusy r b).fault = s.fault := rfl
@[simp] theorem State.setBusy_code (s : State) (r : Reg) (b : Bool) : (s.setBusy r b).code = s.code := rfl
@[simp] theorem State.setBusy_dmem (s : State) (r : Reg) (b : Bool) : (s.setBusy r b).dmem = s.dmem := rfl

/-! ### State.redirectTo -/

@[simp] theorem State.redirectTo_cfg (s : State) (p : Int) : (s.redirectTo p).cfg = s.cfg := rfl
@[simp] theorem State.redirectTo_pc (s : State) (p : Int) : (s.redirectTo p).pc = p := rfl
@[simp] theorem State.redirectTo_clock (s : State) (p : Int) : (s.redirectTo p).clock = s.clock := rfl
@[simp] theorem State.redirectTo_retired (s : State) (p : Int) : (s.redirectTo p).retired = s.retired := rfl
@[simp] theorem State.redirectTo_x (s : State) (p : Int) : (s.redirectTo p).x = s.x := rfl
@[simp] theorem State.redirectTo_z (s : State) (p : Int) : (s.redirectTo p).z = s.z := rfl
@[simp] theorem State.redirectTo_sb (s : State) (p : Int) : (s.redirectTo p).sb = s.sb := rfl
@[simp] theorem State.redirectTo_rq (s : State) (p : Int) : (s.redirectTo p).rq = s.rq := rfl
@[simp] theorem State.redirectTo_fetchEn (s : State) (p : Int) : (s.redirectTo p).fetchEn = true := rfl
@[simp] theorem State.redirectTo_redirect (s : State) (p : Int) : (s.redirectTo p).redirect = true := rfl
@[simp] theorem State.redirectTo_f (s : State) (p : Int) : (s.redirectTo p).f = s.f := rfl
@[simp] theorem State.redirectTo_d (s : State) (p : Int) : (s.redirectTo p).d = { s.d with occ := false } := rfl
@[simp] theorem State.redirectTo_int (s : State) (p : Int) : (s.redirectTo p).int = s.int := rfl
@[simp] theorem State.redirectTo_mul (s : State) (p : Int) : (s.redirectTo p).mul = s.mul := rfl
@[simp] theorem State.redirectTo_ls (s : State) (p : Int) : (s.redirectTo p).ls = s.ls := rfl
@[simp] theorem State.redirectTo_wb (s : State) (p : Int) : (s.redirectTo p).wb = s.wb := rfl
@[simp] theorem State.redirectTo_status (s : State) (p : Int) : (s.redirectTo p).status = s.status := rfl
@[simp] theorem State.redirectTo_fault (s : State) (p : Int) : (s.redirectTo p).fault = s.fault := rfl
@[simp] theorem State.redirectTo_code (s : State) (p : Int) : (s.redirectTo p).code = s.code := rfl
@[simp] theorem State.redirectTo_dmem (s : State) (p : Int) : (s.redirectTo p).dmem = s.dmem := rfl

/-! ### State.setZ -/

@[simp] theorem State.setZ_cfg (s : State) (v : Word) : (s.setZ v).cfg = s.cfg := rfl
@[simp] theorem State.setZ_pc (s : State) (v : Word) : (s.setZ v).pc = s.pc := rfl
@[simp] theorem State.setZ_clock (s : State) (v : Word) : (s.setZ v).clock = s.clock := rfl
@[simp] theorem State.setZ_retired (s : State) (v : Word) : (s.setZ v).retired = s.retired := rfl
@[simp] theorem State.setZ_x (s : State) (v : Word) : (s.setZ v).x = s.x := rfl
@[simp] theorem State.setZ_z (s : State) (v : Word) : (s.setZ v).z = decide (v = 0#32) := rfl
@[simp] theorem State.setZ_sb (s : State) (v : Word) : (s.setZ v).sb = s.sb := rfl
@[simp] theorem State.setZ_rq (s : State) (v : Word) : (s.setZ v).rq = s.rq := rfl
@[simp] theorem State.setZ_fetchEn (s : State) (v : Word) : (s.setZ v).fetchEn = s.fetchEn := rfl
@[simp] theorem State.setZ_redirect (s : State) (v : Word) : (s.setZ v).redirect = s.redirect := rfl
@[simp] theorem State.setZ_f (s : State) (v : Word) : (s.setZ v).f = s.f := rfl
@[simp] theorem State.setZ_d (s : State) (v : Word) : (s.setZ v).d = s.d := rfl
@[simp] theorem State.setZ_int (s : State) (v : Word) : (s.setZ v).int = s.int := rfl
@[simp] theorem State.setZ_mul (s : State) (v : Word) : (s.setZ v).mul = s.mul := rfl
@[simp] theorem State.setZ_ls (s : State) (v : Word) : (s.setZ v).ls = s.ls := rfl
@[simp] theorem State.setZ_wb (s : State) (v : Word) : (s.setZ v).wb = s.wb := rfl
@[simp] theorem State.setZ_status (s : State) (v : Word) : (s.setZ v).status = s.status := rfl
@[simp] theorem State.setZ_fault (s : State) (v : Word) : (s.setZ v).fault = s.fault := rfl
@[simp] theorem State.setZ_code (s : State) (v : Word) : (s.setZ v).code = s.code := rfl
@[simp] theorem State.setZ_dmem (s : State) (v : Word) : (s.setZ v).dmem = s.dmem := rfl

/-! ### State.intResult -/

@[simp] theorem State.intResult_cfg (s : State) (v : Word) : (s.intResult v).cfg = s.cfg := rfl
@[simp] theorem State.intResult_pc (s : State) (v : Word) : (s.intResult v).pc = s.pc := rfl
@[simp] theorem State.intResult_clock (s : State) (v : Word) : (s.intResult v).clock = s.clock := rfl
@[simp] theorem State.intResult_retired (s : State) (v : Word) : (s.intResult v).retired = s.retired := rfl
@[simp] theorem State.intResult_x (s : State) (v : Word) : (s.intResult v).x = s.x := rfl
@[simp] theorem State.intResult_z (s : State) (v : Word) : (s.intResult v).z = decide (v = 0#32) := rfl
@[simp] theorem State.intResult_sb (s : State) (v : Word) : (s.intResult v).sb = s.sb := rfl
@[simp] theorem State.intResult_rq (s : State) (v : Word) : (s.intResult v).rq = s.rq := rfl
@[simp] theorem State.intResult_fetchEn (s : State) (v : Word) : (s.intResult v).fetchEn = s.fetchEn := rfl
@[simp] theorem State.intResult_redirect (s : State) (v : Word) : (s.intResult v).redirect = s.redirect := rfl
@[simp] theorem State.intResult_f (s : State) (v : Word) : (s.intResult v).f = s.f := rfl
@[simp] theorem State.intResult_d (s : State) (v : Word) : (s.intResult v).d = s.d := rfl
@[simp] theorem State.intResult_int (s : State) (v : Word) : (s.intResult v).int = { s.int with res := v } := rfl
@[simp] theorem State.intResult_mul (s : State) (v : Word) : (s.intResult v).mul = s.mul := rfl
@[simp] theorem State.intResult_ls (s : State) (v : Word) : (s.intResult v).ls = s.ls := rfl
@[simp] theorem State.intResult_wb (s : State) (v : Word) : (s.intResult v).wb = s.wb := rfl
@[simp] theorem State.intResult_status (s : State) (v : Word) : (s.intResult v).status = s.status := rfl
@[simp] theorem State.intResult_fault (s : State) (v : Word) : (s.intResult v).fault = s.fault := rfl
@[simp] theorem State.intResult_code (s : State) (v : Word) : (s.intResult v).code = s.code := rfl
@[simp] theorem State.intResult_dmem (s : State) (v : Word) : (s.intResult v).dmem = s.dmem := rfl

/-! ### State.readOperands -/

@[simp] theorem State.readOperands_cfg (s : State) : s.readOperands.cfg = s.cfg := rfl
@[simp] theorem State.readOperands_pc (s : State) : s.readOperands.pc = s.pc := rfl
@[simp] theorem State.readOperands_clock (s : State) : s.readOperands.clock = s.clock := rfl
@[simp] theorem State.readOperands_retired (s : State) : s.readOperands.retired = s.retired := rfl
@[simp] theorem State.readOperands_x (s : State) : s.readOperands.x = s.x := rfl
@[simp] theorem State.readOperands_z (s : State) : s.readOperands.z = s.z := rfl
@[simp] theorem State.readOperands_sb (s : State) : s.readOperands.sb = s.sb := rfl
@[simp] theorem State.readOperands_rq (s : State) : s.readOperands.rq = s.rq := rfl
@[simp] theorem State.readOperands_fetchEn (s : State) : s.readOperands.fetchEn = s.fetchEn := rfl
@[simp] theorem State.readOperands_redirect (s : State) : s.readOperands.redirect = s.redirect := rfl
@[simp] theorem State.readOperands_f (s : State) : s.readOperands.f = s.f := rfl
@[simp] theorem State.readOperands_int (s : State) : s.readOperands.int = s.int := rfl
@[simp] theorem State.readOperands_mul (s : State) : s.readOperands.mul = s.mul := rfl
@[simp] theorem State.readOperands_ls (s : State) : s.readOperands.ls = s.ls := rfl
@[simp] theorem State.readOperands_wb (s : State) : s.readOperands.wb = s.wb := rfl
@[simp] theorem State.readOperands_status (s : State) : s.readOperands.status = s.status := rfl
@[simp] theorem State.readOperands_fault (s : State) : s.readOperands.fault = s.fault := rfl
@[simp] theorem State.readOperands_code (s : State) : s.readOperands.code = s.code := rfl
@[simp] theorem State.readOperands_dmem (s : State) : s.readOperands.dmem = s.dmem := rfl

/-! ### State.reserve -/

@[simp] theorem State.reserve_cfg (s : State) (i : Instr) : (s.reserve i).cfg = s.cfg :=
    by unfold State.reserve; cases destOf i <;> rfl
@[simp] theorem State.reserve_pc (s : State) (i : Instr) : (s.reserve i).pc = s.pc :=
    by unfold State.reserve; cases destOf i <;> rfl
@[simp] theorem State.reserve_clock (s : State) (i : Instr) : (s.reserve i).clock = s.clock :=
    by unfold State.reserve; cases destOf i <;> rfl
@[simp] theorem State.reserve_retired (s : State) (i : Instr) : (s.reserve i).retired = s.retired :=
    by unfold State.reserve; cases destOf i <;> rfl
@[simp] theorem State.reserve_x (s : State) (i : Instr) : (s.reserve i).x = s.x :=
    by unfold State.reserve; cases destOf i <;> rfl
@[simp] theorem State.reserve_z (s : State) (i : Instr) : (s.reserve i).z = s.z :=
    by unfold State.reserve; cases destOf i <;> rfl
@[simp] theorem State.reserve_rq (s : State) (i : Instr) : (s.reserve i).rq = s.rq :=
    by unfold State.reserve; cases destOf i <;> rfl
@[simp] theorem State.reserve_fetchEn (s : State) (i : Instr) : (s.reserve i).fetchEn = s.fetchEn :=
    by unfold State.reserve; cases destOf i <;> rfl
@[simp] theorem State.reserve_redirect (s : State) (i : Instr) : (s.reserve i).redirect = s.redirect :=
    by unfold State.reserve; cases destOf i <;> rfl
@[simp] theorem State.reserve_f (s : State) (i : Instr) : (s.reserve i).f = s.f :=
    by unfold State.reserve; cases destOf i <;> rfl
@[simp] theorem State.reserve_d (s : State) (i : Instr) : (s.reserve i).d = s.d :=
    by unfold State.reserve; cases destOf i <;> rfl
@[simp] theorem State.reserve_int (s : State) (i : Instr) : (s.reserve i).int = s.int :=
    by unfold State.reserve; cases destOf i <;> rfl
@[simp] theorem State.reserve_mul (s : State) (i : Instr) : (s.reserve i).mul = s.mul :=
    by unfold State.reserve; cases destOf i <;> rfl
@[simp] theorem State.reserve_ls (s : State) (i : Instr) : (s.reserve i).ls = s.ls :=
    by unfold State.reserve; cases destOf i <;> rfl
@[simp] theorem State.reserve_wb (s : State) (i : Instr) : (s.reserve i).wb = s.wb :=
    by unfold State.reserve; cases destOf i <;> rfl
@[simp] theorem State.reserve_status (s : State) (i : Instr) : (s.reserve i).status = s.status :=
    by unfold State.reserve; cases destOf i <;> rfl
@[simp] theorem State.reserve_fault (s : State) (i : Instr) : (s.reserve i).fault = s.fault :=
    by unfold State.reserve; cases destOf i <;> rfl
@[simp] theorem State.reserve_code (s : State) (i : Instr) : (s.reserve i).code = s.code :=
    by unfold State.reserve; cases destOf i <;> rfl
@[simp] theorem State.reserve_dmem (s : State) (i : Instr) : (s.reserve i).dmem = s.dmem :=
    by unfold State.reserve; cases destOf i <;> rfl

/-! ### State.commitResult -/

@[simp] theorem State.commitResult_cfg (s : State) : s.commitResult.cfg = s.cfg :=
    by unfold State.commitResult; cases destOf s.wb.instr <;> rfl
@[simp] theorem State.commitResult_pc (s : State) : s.commitResult.pc = s.pc :=
    by unfold State.commitResult; cases destOf s.wb.instr <;> rfl
@[simp] theorem State.commitResult_clock (s : State) : s.commitResult.clock = s.clock :=
    by unfold State.commitResult; cases destOf s.wb.instr <;> rfl
@[simp] theorem State.commitResult_retired (s : State) : s.commitResult.retired = s.retired :=
    by unfold State.commitResult; cases destOf s.wb.instr <;> rfl
@[simp] theorem State.commitResult_z (s : State) : s.commitResult.z = s.z :=
    by unfold State.commitResult; cases destOf s.wb.instr <;> rfl
@[simp] theorem State.commitResult_rq (s : State) : s.commitResult.rq = s.rq :=
    by unfold State.commitResult; cases destOf s.wb.instr <;> rfl
@[simp] theorem State.commitResult_fetchEn (s : State) : s.commitResult.fetchEn = s.fetchEn :=
    by unfold State.commitResult; cases destOf s.wb.instr <;> rfl
@[simp] theorem State.commitResult_redirect (s : State) : s.commitResult.redirect = s.redirect :=
    by unfold State.commitResult; cases destOf s.wb.instr <;> rfl
@[simp] theorem State.commitResult_f (s : State) : s.commitResult.f = s.f :=
    by unfold State.commitResult; cases destOf s.wb.instr <;> rfl
@[simp] theorem State.commitResult_d (s : State) : s.commitResult.d = s.d :=
    by unfold State.commitResult; cases destOf s.wb.instr <;> rfl
@[simp] theorem State.commitResult_int (s : State) : s.commitResult.int = s.int :=
    by unfold State.commitResult; cases destOf s.wb.instr <;> rfl
@[simp] theorem State.commitResult_mul (s : State) : s.commitResult.mul = s.mul :=
    by unfold State.commitResult; cases destOf s.wb.instr <;> rfl
@[simp] theorem State.commitResult_ls (s : State) : s.commitResult.ls = s.ls :=
    by unfold State.commitResult; cases destOf s.wb.instr <;> rfl
@[simp] theorem State.commitResult_wb (s : State) : s.commitResult.wb = s.wb :=
    by unfold State.commitResult; cases destOf s.wb.instr <;> rfl
@[simp] theorem State.commitResult_status (s : State) : s.commitResult.status = s.status :=
    by unfold State.commitResult; cases destOf s.wb.instr <;> rfl
@[simp] theorem State.commitResult_fault (s : State) : s.commitResult.fault = s.fault :=
    by unfold State.commitResult; cases destOf s.wb.instr <;> rfl
@[simp] theorem State.commitResult_code (s : State) : s.commitResult.code = s.code :=
    by unfold State.commitResult; cases destOf s.wb.instr <;> rfl
@[simp] theorem State.commitResult_dmem (s : State) : s.commitResult.dmem = s.dmem :=
    by unfold State.commitResult; cases destOf s.wb.instr <;> rfl

/-! ### State.setUnit -/

@[simp] theorem State.setUnit_cfg (s : State) (u : UnitId) (l : Latch) : (s.setUnit u l).cfg = s.cfg := by cases u <;> rfl
@[simp] theorem State.setUnit_pc (s : State) (u : UnitId) (l : Latch) : (s.setUnit u l).pc = s.pc := by cases u <;> rfl
@[simp] theorem State.setUnit_clock (s : State) (u : UnitId) (l : Latch) : (s.setUnit u l).clock = s.clock := by cases u <;> rfl
@[simp] theorem State.setUnit_retired (s : State) (u : UnitId) (l : Latch) : (s.setUnit u l).retired = s.retired :=
    by cases u <;> rfl
@[simp] theorem State.setUnit_x (s : State) (u : UnitId) (l : Latch) : (s.setUnit u l).x = s.x := by cases u <;> rfl
@[simp] theorem State.setUnit_z (s : State) (u : UnitId) (l : Latch) : (s.setUnit u l).z = s.z := by cases u <;> rfl
@[simp] theorem State.setUnit_sb (s : State) (u : UnitId) (l : Latch) : (s.setUnit u l).sb = s.sb := by cases u <;> rfl
@[simp] theorem State.setUnit_rq (s : State) (u : UnitId) (l : Latch) : (s.setUnit u l).rq = s.rq := by cases u <;> rfl
@[simp] theorem State.setUnit_fetchEn (s : State) (u : UnitId) (l : Latch) : (s.setUnit u l).fetchEn = s.fetchEn :=
    by cases u <;> rfl
@[simp] theorem State.setUnit_redirect (s : State) (u : UnitId) (l : Latch) : (s.setUnit u l).redirect = s.redirect :=
    by cases u <;> rfl
@[simp] theorem State.setUnit_f (s : State) (u : UnitId) (l : Latch) : (s.setUnit u l).f = s.f := by cases u <;> rfl
@[simp] theorem State.setUnit_d (s : State) (u : UnitId) (l : Latch) : (s.setUnit u l).d = s.d := by cases u <;> rfl
@[simp] theorem State.setUnit_wb (s : State) (u : UnitId) (l : Latch) : (s.setUnit u l).wb = s.wb := by cases u <;> rfl
@[simp] theorem State.setUnit_status (s : State) (u : UnitId) (l : Latch) : (s.setUnit u l).status = s.status :=
    by cases u <;> rfl
@[simp] theorem State.setUnit_fault (s : State) (u : UnitId) (l : Latch) : (s.setUnit u l).fault = s.fault := by cases u <;> rfl
@[simp] theorem State.setUnit_code (s : State) (u : UnitId) (l : Latch) : (s.setUnit u l).code = s.code := by cases u <;> rfl
@[simp] theorem State.setUnit_dmem (s : State) (u : UnitId) (l : Latch) : (s.setUnit u l).dmem = s.dmem := by cases u <;> rfl

/-! ### The fields an update sets by cases -/

theorem State.commitResult_x (s : State) :
    s.commitResult.x = match destOf s.wb.instr with
      | some rd => s.x.set rd s.wb.res
      | none => s.x := by
  unfold State.commitResult; cases destOf s.wb.instr <;> rfl

theorem State.commitResult_sb (s : State) :
    s.commitResult.sb = match destOf s.wb.instr with
      | some rd => s.sb.set rd false
      | none => s.sb := by
  unfold State.commitResult; cases destOf s.wb.instr <;> rfl

theorem State.reserve_sb (s : State) (i : Instr) :
    (s.reserve i).sb = match destOf i with
      | some rd => s.sb.set rd true
      | none => s.sb := by
  unfold State.reserve; cases destOf i <;> rfl

/-! ### Unit latches -/

@[simp] theorem State.setUnit_unit (s : State) (u : UnitId) (l : Latch) : (s.setUnit u l).unit u = l := by cases u <;> rfl

theorem State.setUnit_unit_of_ne (s : State) {u v : UnitId} (l : Latch) (h : v ≠ u) : (s.setUnit u l).unit v = s.unit v := by
  cases u <;> cases v <;> first | rfl | exact absurd rfl h

@[simp] theorem State.setUnit_int_int (s : State) (l : Latch) : (s.setUnit .int l).int = l := rfl
@[simp] theorem State.setUnit_int_mul (s : State) (l : Latch) : (s.setUnit .int l).mul = s.mul := rfl
@[simp] theorem State.setUnit_int_ls (s : State) (l : Latch) : (s.setUnit .int l).ls = s.ls := rfl
@[simp] theorem State.setUnit_mul_int (s : State) (l : Latch) : (s.setUnit .mul l).int = s.int := rfl
@[simp] theorem State.setUnit_mul_mul (s : State) (l : Latch) : (s.setUnit .mul l).mul = l := rfl
@[simp] theorem State.setUnit_mul_ls (s : State) (l : Latch) : (s.setUnit .mul l).ls = s.ls := rfl
@[simp] theorem State.setUnit_ls_int (s : State) (l : Latch) : (s.setUnit .ls l).int = s.int := rfl
@[simp] theorem State.setUnit_ls_mul (s : State) (l : Latch) : (s.setUnit .ls l).mul = s.mul := rfl
@[simp] theorem State.setUnit_ls_ls (s : State) (l : Latch) : (s.setUnit .ls l).ls = l := rfl

/-! ### The Decode latch after an operand read -/

@[simp] theorem State.readOperands_d_occ (s : State) : s.readOperands.d.occ = s.d.occ := rfl
@[simp] theorem State.readOperands_d_instr (s : State) : s.readOperands.d.instr = s.d.instr := rfl
@[simp] theorem State.readOperands_d_seq (s : State) : s.readOperands.d.seq = s.d.seq := rfl
@[simp] theorem State.readOperands_d_pc (s : State) : s.readOperands.d.pc = s.d.pc := rfl
@[simp] theorem State.readOperands_d_invalid (s : State) : s.readOperands.d.invalid = s.d.invalid := rfl
@[simp] theorem State.readOperands_d_phase (s : State) : s.readOperands.d.phase = .awaitUnit := rfl
@[simp] theorem State.readOperands_unit (s : State) (u : UnitId) : s.readOperands.unit u = s.unit u := by cases u <;> rfl

end Sys2Proof.Machine
end

