-- ==== Sys2Proof/Laws/Memory.lean ====
section
/-! SUPPORT. The data memory: read after write, and the canonical form kept by every memory operation. -/

namespace Sys2Proof.Machine

@[simp] theorem Memory.read_nil (a : Nat) : Memory.read [] a = 0#32 := rfl

theorem Memory.read_cons (k : Nat) (v : Word) (m : List (Nat × Word)) (a : Nat) :
    Memory.read ((k, v) :: m) a = if k = a then v else Memory.read m a := rfl

/-- Below every listed address a canonical memory reads 0. -/
theorem Memory.read_of_lt {m : List (Nat × Word)} {a : Nat} (h : ∀ p ∈ m, a < p.1) : Memory.read m a = 0#32 := by
  induction m with
  | nil => rfl
  | cons p m ih =>
    have hp := h p (by simp)
    rw [Memory.read_cons, if_neg (by omega), ih fun q hq => h q (by simp [hq])]

theorem Memory.wf_tail {p : Nat × Word} {m : List (Nat × Word)} (h : Memory.wf (p :: m)) : Memory.wf m :=
  ⟨(List.pairwise_cons.mp h.1).2, fun q hq => h.2 q (by simp [hq])⟩

theorem Memory.wf_head_lt {p : Nat × Word} {m : List (Nat × Word)} (h : Memory.wf (p :: m)) : ∀ q ∈ m, p.1 < q.1 :=
  (List.pairwise_cons.mp h.1).1

/-- A written cell reads as what was written (20_memory R63). -/
theorem Memory.read_write_same {m : List (Nat × Word)} (h : Memory.wf m) (a : Nat) (v : Word) :
    Memory.read (Memory.write m a v) a = v := by
  induction m with
  | nil => by_cases hv : v = 0#32 <;> simp [Memory.write, Memory.read, hv]
  | cons p m ih =>
    obtain ⟨k, w⟩ := p
    have hlt := Memory.wf_head_lt h
    rw [Memory.write]
    split
    · next hak =>
      split
      · next hv =>
        rw [Memory.read_cons, if_neg (by omega), hv]
        exact Memory.read_of_lt fun q hq => Nat.lt_trans hak (hlt q hq)
      · simp [Memory.read]
    · split
      · next hne heq =>
        split
        · next hv =>
          subst heq
          rw [hv]
          exact Memory.read_of_lt hlt
        · simp [Memory.read]
      · next h1 h2 => rw [Memory.read_cons, if_neg (fun e => h2 e.symm), ih (Memory.wf_tail h)]

/-- A write leaves every other cell alone (20_memory R64). -/
theorem Memory.read_write_other (m : List (Nat × Word)) {a b : Nat} (v : Word) (h : b ≠ a) :
    Memory.read (Memory.write m a v) b = Memory.read m b := by
  induction m with
  | nil => by_cases hv : v = 0#32 <;> simp [Memory.write, Memory.read, hv, Ne.symm h]
  | cons p m ih =>
    obtain ⟨k, w⟩ := p
    rw [Memory.write]
    split
    · split
      · rfl
      · rw [Memory.read_cons, if_neg (Ne.symm h)]
    · split
      · next heq =>
        subst heq
        split
        · rw [Memory.read_cons, if_neg (Ne.symm h)]
        · rw [Memory.read_cons, if_neg (Ne.symm h), Memory.read_cons, if_neg (Ne.symm h)]
      · rw [Memory.read_cons, Memory.read_cons, ih]

/-- Every cell a write lists is the written one or was listed before. -/
theorem Memory.mem_write {m : List (Nat × Word)} {a : Nat} {v : Word} {p : Nat × Word} (h : p ∈ Memory.write m a v) :
    (p = (a, v) ∧ v ≠ 0#32) ∨ p ∈ m := by
  induction m with
  | nil =>
    rw [Memory.write] at h
    split at h
    · simp at h
    · next hv => simp at h; exact .inl ⟨h, hv⟩
  | cons q m ih =>
    obtain ⟨k, w⟩ := q
    rw [Memory.write] at h
    split at h
    · split at h
      · exact .inr h
      · next hv =>
        rcases List.mem_cons.mp h with h | h
        · exact .inl ⟨h, hv⟩
        · exact .inr h
    · split at h
      · split at h
        · exact .inr (by simp [h])
        · next hv =>
          rcases List.mem_cons.mp h with h | h
          · exact .inl ⟨h, hv⟩
          · exact .inr (by simp [h])
      · rcases List.mem_cons.mp h with h | h
        · exact .inr (by simp [h])
        · rcases ih h with h | h
          · exact .inl h
          · exact .inr (by simp [h])

/-- A write keeps the canonical form. -/
theorem Memory.write_wf {m : List (Nat × Word)} (h : Memory.wf m) (a : Nat) (v : Word) : Memory.wf (Memory.write m a v) := by
  refine ⟨?_, fun p hp => ?_⟩
  · induction m with
    | nil => by_cases hv : v = 0#32 <;> simp [Memory.write, hv]
    | cons q m ih =>
      obtain ⟨k, w⟩ := q
      have hlt := Memory.wf_head_lt h
      have hm := (Memory.wf_tail h).1
      rw [Memory.write]
      split
      · next hak =>
        split
        · exact h.1
        · refine List.pairwise_cons.mpr ⟨fun r hr => ?_, h.1⟩
          rcases List.mem_cons.mp hr with hr | hr
          · subst hr; exact hak
          · exact Nat.lt_trans hak (hlt r hr)
      · split
        · next heq =>
          subst heq
          split
          · exact hm
          · exact List.pairwise_cons.mpr ⟨hlt, hm⟩
        · next h1 h2 =>
          refine List.pairwise_cons.mpr ⟨fun r hr => ?_, ih (Memory.wf_tail h)⟩
          rcases Memory.mem_write hr with ⟨hr, -⟩ | hr
          · subst hr; show k < a; omega
          · exact hlt r hr
  · rcases Memory.mem_write hp with ⟨hp, hv⟩ | hp
    · rw [hp]; exact hv
    · exact h.2 p hp

/-- `MemWrite` keeps the canonical form. -/
theorem State.memWrite_wf {s t : State} {ea : Int} {v : Word} (h : s.memWrite ea v = some t) (hs : Memory.wf s.dmem) :
    Memory.wf t.dmem := by
  unfold State.memWrite at h
  split at h
  · cases h; exact Memory.write_wf hs _ _
  · cases h

/-- The memory of a constructed core, and so of reset, is in its canonical form (70_reset R360). -/
theorem State.constructed_memory_wf (cfg : Config) (code : List Instr) : Memory.wf (State.constructed cfg code).dmem :=
  ⟨List.Pairwise.nil, fun _ h => absurd h List.not_mem_nil⟩

theorem State.reset_memory_wf : Memory.wf State.reset.dmem := State.constructed_memory_wf _ _

end Sys2Proof.Machine
end

