-- ==== Sys2Proof/Laws/PerInstr.lean ====
section
/-! SUPPORT. Per instruction: its record is well formed and the loader reads the instruction back from it (30_encoding R81, R83,
R84; 60_exceptions R323). -/

namespace Sys2Proof.Laws.RecordForm

/-- The record of the instruction passes the loader's check and loads as the instruction. -/
def Statement (i : Instr) : Prop := i.toRecord.wellFormed = true ∧ i.toRecord.toInstr = .ok i

theorem toInt_lo (w : Word) : (-2147483648 : Int) ≤ w.toInt := by
  have h := BitVec.le_toInt w
  omega

theorem toInt_hi (w : Word) : w.toInt ≤ (2147483647 : Int) := by
  have h := BitVec.toInt_lt (x := w)
  omega

theorem add (rd rs1 rs2 : Reg) : Statement (.add rd rs1 rs2) := by
  simp [Statement, Instr.toRecord, Record.wellFormed, Record.toInstr, instrOf, Record.regOk, Record.immOk, minInt, maxInt]

theorem addl (rd rs1 : Reg) (imm : Word) : Statement (.addl rd rs1 imm) := by
  simp [Statement, Instr.toRecord, Record.wellFormed, Record.toInstr, instrOf, Record.regOk, Record.immOk, minInt, maxInt, toInt_lo imm, toInt_hi imm]

theorem sub (rd rs1 rs2 : Reg) : Statement (.sub rd rs1 rs2) := by
  simp [Statement, Instr.toRecord, Record.wellFormed, Record.toInstr, instrOf, Record.regOk, Record.immOk, minInt, maxInt]

theorem subl (rd rs1 : Reg) (imm : Word) : Statement (.subl rd rs1 imm) := by
  simp [Statement, Instr.toRecord, Record.wellFormed, Record.toInstr, instrOf, Record.regOk, Record.immOk, minInt, maxInt, toInt_lo imm, toInt_hi imm]

theorem mul (rd rs1 rs2 : Reg) : Statement (.mul rd rs1 rs2) := by
  simp [Statement, Instr.toRecord, Record.wellFormed, Record.toInstr, instrOf, Record.regOk, Record.immOk, minInt, maxInt]

theorem div (rd rs1 rs2 : Reg) : Statement (.div rd rs1 rs2) := by
  simp [Statement, Instr.toRecord, Record.wellFormed, Record.toInstr, instrOf, Record.regOk, Record.immOk, minInt, maxInt]

theorem and (rd rs1 rs2 : Reg) : Statement (.and rd rs1 rs2) := by
  simp [Statement, Instr.toRecord, Record.wellFormed, Record.toInstr, instrOf, Record.regOk, Record.immOk, minInt, maxInt]

theorem or (rd rs1 rs2 : Reg) : Statement (.or rd rs1 rs2) := by
  simp [Statement, Instr.toRecord, Record.wellFormed, Record.toInstr, instrOf, Record.regOk, Record.immOk, minInt, maxInt]

theorem xor (rd rs1 rs2 : Reg) : Statement (.xor rd rs1 rs2) := by
  simp [Statement, Instr.toRecord, Record.wellFormed, Record.toInstr, instrOf, Record.regOk, Record.immOk, minInt, maxInt]

theorem cmp (rs1 rs2 : Reg) : Statement (.cmp rs1 rs2) := by
  simp [Statement, Instr.toRecord, Record.wellFormed, Record.toInstr, instrOf, Record.regOk, Record.immOk, minInt, maxInt]

theorem movc (rd : Reg) (imm : Word) : Statement (.movc rd imm) := by
  simp [Statement, Instr.toRecord, Record.wellFormed, Record.toInstr, instrOf, Record.regOk, Record.immOk, minInt, maxInt, toInt_lo imm, toInt_hi imm]

theorem load (rd rs1 : Reg) (imm : Word) : Statement (.load rd rs1 imm) := by
  simp [Statement, Instr.toRecord, Record.wellFormed, Record.toInstr, instrOf, Record.regOk, Record.immOk, minInt, maxInt, toInt_lo imm, toInt_hi imm]

theorem store (rs1 rs2 : Reg) (imm : Word) : Statement (.store rs1 rs2 imm) := by
  simp [Statement, Instr.toRecord, Record.wellFormed, Record.toInstr, instrOf, Record.regOk, Record.immOk, minInt, maxInt, toInt_lo imm, toInt_hi imm]

theorem ldr (rd rs1 rs2 : Reg) : Statement (.ldr rd rs1 rs2) := by
  simp [Statement, Instr.toRecord, Record.wellFormed, Record.toInstr, instrOf, Record.regOk, Record.immOk, minInt, maxInt]

theorem str (rs1 rs2 rs3 : Reg) : Statement (.str rs1 rs2 rs3) := by
  simp [Statement, Instr.toRecord, Record.wellFormed, Record.toInstr, instrOf, Record.regOk, Record.immOk, minInt, maxInt]

theorem bz (imm : Word) : Statement (.bz imm) := by
  simp [Statement, Instr.toRecord, Record.wellFormed, Record.toInstr, instrOf, Record.regOk, Record.immOk, minInt, maxInt, toInt_lo imm, toInt_hi imm]

theorem bnz (imm : Word) : Statement (.bnz imm) := by
  simp [Statement, Instr.toRecord, Record.wellFormed, Record.toInstr, instrOf, Record.regOk, Record.immOk, minInt, maxInt, toInt_lo imm, toInt_hi imm]

theorem nop : Statement (.nop) := by
  simp [Statement, Instr.toRecord, Record.wellFormed, Record.toInstr, instrOf, Record.regOk, Record.immOk, minInt, maxInt]

theorem halt : Statement (.halt) := by
  simp [Statement, Instr.toRecord, Record.wellFormed, Record.toInstr, instrOf, Record.regOk, Record.immOk, minInt, maxInt]

end Sys2Proof.Laws.RecordForm
end

