-- ==== Sys2Proof/Laws/Stages.lean ====
section
/-! SUPPORT. What each shared operation and each stage of a tick can answer: one lemma per operation, which later proofs cite
instead of unfolding it. -/

namespace Sys2Proof.Machine

/-! ### Sequencing -/

@[simp] theorem Result.andThen_next_of_running {s : State} (f : State → Result) (h : s.status = .running) :
    Result.andThen (.next s) f = f s := by
  simp [Result.andThen, h]

theorem Result.andThen_next_of_not_running {s : State} (f : State → Result) (h : s.status ≠ .running) :
    Result.andThen (.next s) f = .next s := by
  simp [Result.andThen, h]

/-- A sequence answers a next state exactly when its first part does and either the second part goes on from there, or the first
part ended the tick there. -/
theorem Result.andThen_eq_next {r : Result} {f : State → Result} {t : State} :
    r.andThen f = .next t ↔
      ∃ s, r = .next s ∧ ((s.status = .running ∧ f s = .next t) ∨ (s.status ≠ .running ∧ t = s)) := by
  cases r with
  | next s =>
    by_cases h : s.status = .running
    · simp [Result.andThen, h]
    · simp only [Result.andThen, if_neg h, Host.Outcome.next.injEq]
      exact ⟨fun e => ⟨s, rfl, .inr ⟨h, e.symm⟩⟩, fun ⟨_, e, he⟩ => by
        subst e
        exact he.elim (fun g => absurd g.1 h) fun g => g.2.symm⟩
  | fault e => simp [Result.andThen]
  | refused e => simp [Result.andThen]

/-- Sequencing is associative: a tick that has ended stays ended. -/
theorem Result.andThen_assoc (r : Result) (f g : State → Result) :
    (r.andThen f).andThen g = r.andThen fun t => (f t).andThen g := by
  cases r with
  | next s =>
    by_cases h : s.status = .running
    · simp [h]
    · simp [Result.andThen, h]
  | fault e => rfl
  | refused e => rfl

/-- A sequence answers a next state when its parts do. -/
theorem Result.andThen_next {r : Result} {f : State → Result} (hr : ∃ s, r = .next s) (hf : ∀ s, ∃ t, f s = .next t) :
    ∃ t, r.andThen f = .next t := by
  obtain ⟨s, rfl⟩ := hr
  by_cases h : s.status = .running
  · simpa [Result.andThen, h] using hf s
  · exact ⟨s, Result.andThen_next_of_not_running f h⟩

/-! ### Arithmetic and memory access -/

/-- `fit` answers the two's-complement pattern or, out of range under the fault policy, nothing. -/
theorem fit_cases (p : OverflowPolicy) (v : Int) :
    fit p v = some (BitVec.ofInt 32 v) ∨ (fit p v = none ∧ p = .fault ∧ ¬(minInt ≤ v ∧ v ≤ maxInt)) := by
  unfold fit
  split
  · exact .inl rfl
  · next h => cases p <;> simp [h]

theorem fit_of_inRange (p : OverflowPolicy) {v : Int} (h : minInt ≤ v ∧ v ≤ maxInt) : fit p v = some (BitVec.ofInt 32 v) := by
  simp [fit, h]

theorem fit_wrap (v : Int) : fit .wrap v = some (BitVec.ofInt 32 v) := by
  unfold fit; split <;> rfl

theorem fit_fault_of_outOfRange {v : Int} (h : ¬(minInt ≤ v ∧ v ≤ maxInt)) : fit .fault v = none := by
  simp [fit, h]

theorem intArith_cases (v : Int) (s : State) :
    intArith v s = .next (s.intResult (BitVec.ofInt 32 v)) ∨
      intArith v s = .next (s.raise .overflowFault (some s.int.seq) none) := by
  rcases fit_cases s.cfg.overflow v with h | ⟨h, -⟩
  · exact .inl (by simp [intArith, h])
  · exact .inr (by simp [intArith, h])

theorem mulArith_cases (v : Int) (s : State) :
    mulArith v s = .next ({ s with mul := { s.mul with res := BitVec.ofInt 32 v } }.setZ (BitVec.ofInt 32 v)) ∨
      mulArith v s = .next (s.raise .overflowFault (some s.mul.seq) none) := by
  rcases fit_cases s.cfg.overflow v with h | ⟨h, -⟩
  · exact .inl (by simp [mulArith, h])
  · exact .inr (by simp [mulArith, h])

theorem validAddress_iff (c : Config) (ea : Int) : validAddress c ea = true ↔ 0 ≤ ea ∧ ea < c.dmemSize := by
  simp [validAddress]

theorem loadCell_valid {ea : Int} {s : State} (h : validAddress s.cfg ea = true) :
    loadCell ea s = .next { s with ls := { s.ls with ea := ea, res := Memory.read s.dmem ea.toNat } } := by
  simp [loadCell, State.memRead, h]

theorem loadCell_invalid {ea : Int} {s : State} (h : validAddress s.cfg ea = false) :
    loadCell ea s = .next ({ s with ls := { s.ls with ea := ea } }.raise .addressFault (some s.ls.seq) (some ea)) := by
  simp [loadCell, State.memRead, h]

theorem storeCell_valid {ea : Int} {s : State} (v : Word) (h : validAddress s.cfg ea = true) :
    storeCell ea v s = .next { s with ls := { s.ls with ea := ea }, dmem := Memory.write s.dmem ea.toNat v } := by
  simp [storeCell, State.memWrite, h]

theorem storeCell_invalid {ea : Int} {s : State} (v : Word) (h : validAddress s.cfg ea = false) :
    storeCell ea v s = .next ({ s with ls := { s.ls with ea := ea } }.raise .addressFault (some s.ls.seq) (some ea)) := by
  simp [storeCell, State.memWrite, h]

/-! ### What a meaning can do, unit by unit -/

/-- An Integer-unit instruction sets its result and Z, or redirects, or raises a fault that names it; nothing else. -/
theorem exec_int_cases {i : Instr} (hi : unitOf i = .int) (s : State) :
    (∃ w b, exec i s = .next { s with int := { s.int with res := w }, z := b }) ∨
      (∃ p, exec i s = .next (s.redirectTo p)) ∨
      (∃ k, exec i s = .next (s.raise k (some s.int.seq) none) ∧ (k = .overflowFault ∨ k = .divideByZeroFault)) := by
  have arith : ∀ v, (∃ w b, intArith v s = .next { s with int := { s.int with res := w }, z := b }) ∨
      (∃ p, intArith v s = .next (s.redirectTo p)) ∨
      (∃ k, intArith v s = .next (s.raise k (some s.int.seq) none) ∧ (k = .overflowFault ∨ k = .divideByZeroFault)) := by
    intro v
    rcases intArith_cases v s with h | h
    · exact .inl ⟨_, _, h⟩
    · exact .inr (.inr ⟨_, h, .inl rfl⟩)
  cases i with
  | add rd rs1 rs2 => exact arith _
  | addl rd rs1 imm => exact arith _
  | sub rd rs1 rs2 => exact arith _
  | subl rd rs1 imm => exact arith _
  | mul rd rs1 rs2 => cases hi
  | div rd rs1 rs2 =>
    by_cases hb : s.int.b = 0#32
    · exact .inr (.inr ⟨.divideByZeroFault, by simp [exec, execDiv, hb], .inr rfl⟩)
    · simpa [exec, execDiv, hb] using arith (s.int.a.toInt.tdiv s.int.b.toInt)
  | and rd rs1 rs2 => exact .inl ⟨_, _, rfl⟩
  | or rd rs1 rs2 => exact .inl ⟨_, _, rfl⟩
  | xor rd rs1 rs2 => exact .inl ⟨_, _, rfl⟩
  | cmp rs1 rs2 => exact .inl ⟨s.int.res, _, rfl⟩
  | movc rd imm => exact .inl ⟨_, _, rfl⟩
  | load rd rs1 imm => cases hi
  | store rs1 rs2 imm => cases hi
  | ldr rd rs1 rs2 => cases hi
  | str rs1 rs2 rs3 => cases hi
  | bz imm =>
    by_cases hz : s.z = true
    · exact .inr (.inl ⟨branchTarget s.int.pc imm, by simp only [exec, execBz, if_pos hz]⟩)
    · exact .inl ⟨s.int.res, s.z, by simp only [exec, execBz, if_neg hz]⟩
  | bnz imm =>
    by_cases hz : s.z = false
    · exact .inr (.inl ⟨branchTarget s.int.pc imm, by simp only [exec, execBnz, if_pos hz]⟩)
    · exact .inl ⟨s.int.res, s.z, by simp only [exec, execBnz, if_neg hz]⟩
  | nop => exact .inl ⟨s.int.res, s.z, rfl⟩
  | halt => exact .inl ⟨s.int.res, s.z, rfl⟩

/-- A Multiplier instruction sets its result and Z, or raises an overflow that names it; nothing else. -/
theorem exec_mul_cases {i : Instr} (hi : unitOf i = .mul) (s : State) :
    (∃ w b, exec i s = .next { s with mul := { s.mul with res := w }, z := b }) ∨
      exec i s = .next (s.raise .overflowFault (some s.mul.seq) none) := by
  cases i with
  | mul rd rs1 rs2 =>
    rcases mulArith_cases (s.mul.a.toInt * s.mul.b.toInt) s with h | h
    · exact .inl ⟨_, _, h⟩
    · exact .inr h
  | _ => cases hi

/-- A Load/Store instruction sets its address and then its result or one cell, or raises an address fault that names it and that
address; nothing else. -/
theorem exec_ls_cases {i : Instr} (hi : unitOf i = .ls) (s : State) :
    ∃ ea, (validAddress s.cfg ea = true ∧
        ((∃ v, exec i s = .next { s with ls := { s.ls with ea := ea, res := v } }) ∨
          (∃ v, exec i s = .next { s with ls := { s.ls with ea := ea }, dmem := Memory.write s.dmem ea.toNat v }))) ∨
      (validAddress s.cfg ea = false ∧
        exec i s = .next ({ s with ls := { s.ls with ea := ea } }.raise .addressFault (some s.ls.seq) (some ea))) := by
  have load : ∀ ea, (validAddress s.cfg ea = true ∧ ∃ v, loadCell ea s = .next { s with ls := { s.ls with ea := ea, res := v } }) ∨
      (validAddress s.cfg ea = false ∧
        loadCell ea s = .next ({ s with ls := { s.ls with ea := ea } }.raise .addressFault (some s.ls.seq) (some ea))) := by
    intro ea
    cases h : validAddress s.cfg ea with
    | true => exact .inl ⟨rfl, _, loadCell_valid h⟩
    | false => exact .inr ⟨rfl, loadCell_invalid h⟩
  have store : ∀ ea v, (validAddress s.cfg ea = true ∧
        storeCell ea v s = .next { s with ls := { s.ls with ea := ea }, dmem := Memory.write s.dmem ea.toNat v }) ∨
      (validAddress s.cfg ea = false ∧
        storeCell ea v s = .next ({ s with ls := { s.ls with ea := ea } }.raise .addressFault (some s.ls.seq) (some ea))) := by
    intro ea v
    cases h : validAddress s.cfg ea with
    | true => exact .inl ⟨rfl, storeCell_valid v h⟩
    | false => exact .inr ⟨rfl, storeCell_invalid v h⟩
  cases i with
  | load rd rs1 imm => exact ⟨_, (load _).imp_left fun h => ⟨h.1, .inl h.2⟩⟩
  | store rs1 rs2 imm => exact ⟨_, (store _ _).imp_left fun h => ⟨h.1, .inr ⟨_, h.2⟩⟩⟩
  | ldr rd rs1 rs2 => exact ⟨_, (load _).imp_left fun h => ⟨h.1, .inl h.2⟩⟩
  | str rs1 rs2 rs3 => exact ⟨_, (store _ _).imp_left fun h => ⟨h.1, .inr ⟨_, h.2⟩⟩⟩
  | _ => cases hi

/-- Every meaning answers a next state. -/
theorem exec_next (i : Instr) (s : State) : ∃ t, exec i s = .next t := by
  cases hi : unitOf i with
  | int =>
    rcases exec_int_cases hi s with ⟨_, _, h⟩ | ⟨_, h⟩ | ⟨_, h, -⟩ <;> exact ⟨_, h⟩
  | mul =>
    rcases exec_mul_cases hi s with ⟨_, _, h⟩ | h <;> exact ⟨_, h⟩
  | ls =>
    obtain ⟨ea, ⟨-, ⟨_, h⟩ | ⟨_, h⟩⟩ | ⟨-, h⟩⟩ := exec_ls_cases hi s <;> exact ⟨_, h⟩

/-! ### Stages -/

/-- Hand-off: the unit's instruction waits, moves to Writeback, or an internal check fails (40_pipeline R145). -/
theorem handOff_cases (u : UnitId) (s : State) :
    (s.rq = [] ∧ handOff u s = .next (s.raise .internalFault (some (s.unit u).seq) none)) ∨
    (∃ h q, s.rq = h :: q ∧
      ((h ≠ (s.unit u).seq ∧ handOff u s = .next s) ∨
       (h = (s.unit u).seq ∧ s.wb.occ = true ∧ handOff u s = .next (s.raise .internalFault (some (s.unit u).seq) none)) ∨
       (h = (s.unit u).seq ∧ s.wb.occ = false ∧
         handOff u s = .next ({ s with wb := s.unit u }.setUnit u { s.unit u with occ := false, st := .free })))) := by
  cases hq : s.rq with
  | nil => exact .inl ⟨rfl, by simp [handOff, hq]⟩
  | cons h q =>
    refine .inr ⟨h, q, rfl, ?_⟩
    by_cases hh : h = (s.unit u).seq
    · cases hw : s.wb.occ with
      | true => exact .inr (.inl ⟨hh, rfl, by simp [handOff, hq, hh, hw]⟩)
      | false => exact .inr (.inr ⟨hh, rfl, by simp [handOff, hq, hh, hw]⟩)
    · exact .inl ⟨hh, by simp [handOff, hq, hh]⟩

theorem handOff_next (u : UnitId) (s : State) : ∃ t, handOff u s = .next t := by
  rcases handOff_cases u s with ⟨-, h⟩ | ⟨_, _, -, ⟨-, h⟩ | ⟨-, -, h⟩ | ⟨-, -, h⟩⟩ <;> exact ⟨_, h⟩

/-- The state Writeback leaves when it retires its instruction (40_pipeline R165, R166). -/
def afterRetire (s : State) : State :=
  { s with
    x := s.commitResult.x
    sb := s.commitResult.sb
    rq := s.rq.tail
    retired := s.retired + 1#64
    wb := { s.wb with occ := false }
    status := if s.wb.instr = .halt then .halted else s.status }

/-- Writeback does nothing, fails its internal check, or retires its instruction (40_pipeline R165). -/
theorem writeback_cases (s : State) :
    (s.wb.occ = false ∧ writeback s = .next s) ∨
    (s.wb.occ = true ∧ s.rq.head? ≠ some s.wb.seq ∧
      writeback s = .next (s.raise .internalFault (some s.wb.seq) none)) ∨
    (s.wb.occ = true ∧ s.rq.head? = some s.wb.seq ∧ writeback s = .next (afterRetire s)) := by
  cases hw : s.wb.occ with
  | false => exact .inl ⟨rfl, by simp [writeback, hw]⟩
  | true =>
    by_cases hh : s.rq.head? = some s.wb.seq
    · refine .inr (.inr ⟨rfl, hh, ?_⟩)
      by_cases hi : s.wb.instr = .halt
      · simp [writeback, afterRetire, hw, hh, hi]
      · simp [writeback, afterRetire, hw, hh, hi]
    · exact .inr (.inl ⟨rfl, hh, by simp [writeback, hw, hh]⟩)

theorem writeback_next (s : State) : ∃ t, writeback s = .next t := by
  rcases writeback_cases s with ⟨-, h⟩ | ⟨-, -, h⟩ | ⟨-, -, h⟩ <;> exact ⟨_, h⟩

theorem loadStore_next (s : State) : ∃ t, loadStore s = .next t := by
  have fin : ∀ t : State, ∃ u, (if t.ls.st = .done then handOff .ls t else Host.Outcome.next t : Result) = .next u := by
    intro t
    split
    · exact handOff_next _ _
    · exact ⟨t, rfl⟩
  unfold loadStore
  split
  · exact ⟨_, rfl⟩
  · refine Result.andThen_next ?_ fin
    split
    · dsimp only
      split
      · exact Result.andThen_next (exec_next _ _) fun t => ⟨_, rfl⟩
      · exact ⟨_, rfl⟩
    · exact ⟨_, rfl⟩

/-- Before its final cycle the Load/Store unit only counts (40_pipeline R160). -/
theorem loadStore_counting {s : State} (ho : s.ls.occ = true) (hs : s.ls.st = .busy) (hc : s.ls.count + 1 ≠ Config.lsLat) :
    loadStore s = .next (s.setUnit .ls { s.ls with count := s.ls.count + 1 }) := by
  by_cases hr : s.status = .running <;> simp [loadStore, ho, hs, hc, Result.andThen, hr]

/-- On its final cycle the Load/Store unit computes, is DONE, and tries to hand off (40_pipeline R160, R161). -/
theorem loadStore_final {s : State} (ho : s.ls.occ = true) (hs : s.ls.st = .busy) (hc : s.ls.count + 1 = Config.lsLat) :
    loadStore s =
      (Result.andThen (exec s.ls.instr (s.setUnit .ls { s.ls with count := s.ls.count + 1 }))
        fun t => .next (t.setUnit .ls { t.ls with st := .done })).andThen
        fun t => if t.ls.st = .done then handOff .ls t else .next t := by
  simp [loadStore, ho, hs, hc]

/-- A DONE Load/Store unit only tries to hand off (40_pipeline R160, R162). -/
theorem loadStore_done {s : State} (hr : s.status = .running) (ho : s.ls.occ = true) (hs : s.ls.st = .done) :
    loadStore s = handOff .ls s := by
  simp [loadStore, ho, hs, hr]

/-- Before its final cycle the Multiplier only counts (40_pipeline R155). -/
theorem multiply_counting {s : State} (ho : s.mul.occ = true) (hs : s.mul.st = .busy) (hc : s.mul.count + 1 ≠ Config.mulLat) :
    multiply s = .next (s.setUnit .mul { s.mul with count := s.mul.count + 1 }) := by
  by_cases hr : s.status = .running <;> simp [multiply, ho, hs, hc, Result.andThen, hr]

/-- On its final cycle the Multiplier computes, is DONE, and tries to hand off (40_pipeline R155, R156). -/
theorem multiply_final {s : State} (ho : s.mul.occ = true) (hs : s.mul.st = .busy) (hc : s.mul.count + 1 = Config.mulLat) :
    multiply s =
      (Result.andThen (exec s.mul.instr (s.setUnit .mul { s.mul with count := s.mul.count + 1 }))
        fun t => .next (t.setUnit .mul { t.mul with st := .done })).andThen
        fun t => if t.mul.st = .done then handOff .mul t else .next t := by
  simp [multiply, ho, hs, hc]

/-- A DONE Multiplier only tries to hand off (40_pipeline R155, R157). -/
theorem multiply_done {s : State} (hr : s.status = .running) (ho : s.mul.occ = true) (hs : s.mul.st = .done) :
    multiply s = handOff .mul s := by
  simp [multiply, ho, hs, hr]

theorem multiply_next (s : State) : ∃ t, multiply s = .next t := by
  have fin : ∀ t : State, ∃ u, (if t.mul.st = .done then handOff .mul t else Host.Outcome.next t : Result) = .next u := by
    intro t
    split
    · exact handOff_next _ _
    · exact ⟨t, rfl⟩
  unfold multiply
  split
  · exact ⟨_, rfl⟩
  · refine Result.andThen_next ?_ fin
    split
    · dsimp only
      split
      · exact Result.andThen_next (exec_next _ _) fun t => ⟨_, rfl⟩
      · exact ⟨_, rfl⟩
    · exact ⟨_, rfl⟩

/-- The Integer unit is empty, finds no queue, waits for the head, or computes and hands off (40_pipeline R150). -/
theorem integer_cases (s : State) :
    (s.int.occ = false ∧ integer s = .next s) ∨
    (s.int.occ = true ∧ s.rq = [] ∧ integer s = .next (s.raise .internalFault (some s.int.seq) none)) ∨
    (s.int.occ = true ∧ ∃ h q, s.rq = h :: q ∧
      ((h ≠ s.int.seq ∧ integer s = .next s) ∨
       (h = s.int.seq ∧ integer s =
          Result.andThen (exec s.int.instr s) fun t => handOff .int (t.setUnit .int { t.int with st := .done })))) := by
  cases ho : s.int.occ with
  | false => exact .inl ⟨rfl, by simp [integer, ho]⟩
  | true =>
    cases hq : s.rq with
    | nil => exact .inr (.inl ⟨rfl, rfl, by simp [integer, ho, hq]⟩)
    | cons h q =>
      refine .inr (.inr ⟨rfl, h, q, rfl, ?_⟩)
      by_cases hh : h = s.int.seq
      · exact .inr ⟨hh, by simp [integer, ho, hq, hh]⟩
      · exact .inl ⟨hh, by simp [integer, ho, hq, hh]⟩

theorem integer_next (s : State) : ∃ t, integer s = .next t := by
  rcases integer_cases s with ⟨-, h⟩ | ⟨-, -, h⟩ | ⟨-, _, _, -, ⟨-, h⟩ | ⟨-, h⟩⟩
  · exact ⟨_, h⟩
  · exact ⟨_, h⟩
  · exact ⟨_, h⟩
  · rw [h]; exact Result.andThen_next (exec_next _ _) fun t => handOff_next _ _

/-- The state a dispatch leaves (40_pipeline R138 to R142). -/
def afterDispatch (s : State) : State :=
  { (s.setUnit (unitOf s.d.instr) { s.d.toLatch with count := 0, st := .busy, occ := true }).reserve s.d.instr with
    rq := s.rq ++ [s.d.seq]
    d := { s.d with occ := false } }

/-- The instruction in D waits for its unit, finds RQ full, or dispatches (40_pipeline R136, R138). -/
theorem dispatch_cases (s : State) :
    ((s.unit (unitOf s.d.instr)).occ = true ∧ dispatch s = .next s) ∨
    ((s.unit (unitOf s.d.instr)).occ = false ∧ s.rq.length = Config.rqCap ∧
      dispatch s = .next (s.raise .internalFault (some s.d.seq) none)) ∨
    ((s.unit (unitOf s.d.instr)).occ = false ∧ s.rq.length ≠ Config.rqCap ∧ dispatch s = .next (afterDispatch s)) := by
  cases hu : (s.unit (unitOf s.d.instr)).occ with
  | true => exact .inl ⟨rfl, by simp [dispatch, hu]⟩
  | false =>
    by_cases hl : s.rq.length = Config.rqCap
    · exact .inr (.inl ⟨rfl, hl, by simp [dispatch, hu, hl]⟩)
    · exact .inr (.inr ⟨rfl, hl, by simp [dispatch, afterDispatch, hu, hl]⟩)

/-- Decode is empty, holds or reports a marker, stalls on a hazard, or tries to dispatch with its operands read (40_pipeline
R131 to R136). -/
theorem decodeStage_cases (s : State) :
    (s.d.occ = false ∧ decodeStage s = .next s) ∨
    (s.d.occ = true ∧ s.d.invalid = true ∧ s.rq = [] ∧
      decodeStage s = .next (s.raise .fetchFault none (some s.d.pc))) ∨
    (s.d.occ = true ∧ s.d.invalid = true ∧ s.rq ≠ [] ∧ decodeStage s = .next s) ∨
    (s.d.occ = true ∧ s.d.invalid = false ∧ s.d.phase = .check ∧ s.hazard s.d.instr = true ∧ decodeStage s = .next s) ∨
    (s.d.occ = true ∧ s.d.invalid = false ∧ s.d.phase = .check ∧ s.hazard s.d.instr = false ∧
      decodeStage s = dispatch s.readOperands) ∨
    (s.d.occ = true ∧ s.d.invalid = false ∧ s.d.phase = .awaitUnit ∧ decodeStage s = dispatch s) := by
  cases ho : s.d.occ <;> cases hi : s.d.invalid <;> cases hp : s.d.phase <;> cases hh : s.hazard s.d.instr <;>
    by_cases hq : s.rq = [] <;> simp [decodeStage, ho, hi, hp, hh, hq]

theorem dispatch_next (s : State) : ∃ t, dispatch s = .next t := by
  rcases dispatch_cases s with ⟨-, h⟩ | ⟨-, -, h⟩ | ⟨-, -, h⟩ <;> exact ⟨_, h⟩

theorem decodeStage_next (s : State) : ∃ t, decodeStage s = .next t := by
  rcases decodeStage_cases s with ⟨-, h⟩ | ⟨-, -, -, h⟩ | ⟨-, -, -, h⟩ | ⟨-, -, -, -, h⟩ | ⟨-, -, -, -, h⟩ | ⟨-, -, -, h⟩
  · exact ⟨_, h⟩
  · exact ⟨_, h⟩
  · exact ⟨_, h⟩
  · exact ⟨_, h⟩
  · rw [h]; exact dispatch_next _
  · rw [h]; exact dispatch_next _

/-- Fetch consumes the redirect flag, does nothing, fetches a slot, or places a marker (40_pipeline R125 to R130). -/
theorem fetch_cases (s : State) :
    (s.redirect = true ∧ fetch s = .next { s with redirect := false }) ∨
    (s.redirect = false ∧ (s.fetchEn = false ∨ s.d.occ = true) ∧ fetch s = .next s) ∨
    (s.redirect = false ∧ s.fetchEn = true ∧ s.d.occ = false ∧ ∃ k i, s.fetchSlot s.pc = some (k, i) ∧
      fetch s = .next { s with
        f := { s.f with instr := i, seq := k, pc := s.pc }
        d := fetched s k i
        pc := s.pc + Config.insnBytes
        fetchEn := decide (i ≠ .halt) }) ∨
    (s.redirect = false ∧ s.fetchEn = true ∧ s.d.occ = false ∧ s.fetchSlot s.pc = none ∧
      fetch s = .next { s with d := marker s, fetchEn := false }) := by
  cases hr : s.redirect <;> cases he : s.fetchEn <;> cases ho : s.d.occ
  case false.true.false =>
    cases hs : s.fetchSlot s.pc with
    | none => exact .inr (.inr (.inr ⟨rfl, rfl, rfl, rfl, by simp [fetch, hr, he, ho, hs]⟩))
    | some p => exact .inr (.inr (.inl ⟨rfl, rfl, rfl, p.1, p.2, rfl, by simp [fetch, hr, he, ho, hs]⟩))
  all_goals simp [fetch, hr, he, ho]

theorem fetch_next (s : State) : ∃ t, fetch s = .next t := by
  rcases fetch_cases s with ⟨-, h⟩ | ⟨-, -, h⟩ | ⟨-, -, -, _, _, -, h⟩ | ⟨-, -, -, -, h⟩ <;> exact ⟨_, h⟩

/-! ### Fetch slots -/

/-- A pc at slot `k` of the table fetches that slot (10_state R25, 20_memory R61). -/
theorem State.fetchSlot_of_slot {s : State} {k : Nat} {i : Instr} (hi : s.code[k]? = some i) :
    s.fetchSlot (s.cfg.codeBase + 4 * (k : Int)) = some (k, i) := by
  obtain ⟨hk, -⟩ := List.getElem?_eq_some_iff.mp hi
  have h : slotOf s.cfg s.code.length (s.cfg.codeBase + 4 * (k : Int)) = some k := by
    have e : (s.cfg.codeBase : Int) + 4 * (k : Int) - s.cfg.codeBase = 4 * (k : Int) := by ring
    simp only [slotOf, Config.insnBytes, e]
    rw [if_pos (by omega)]
    congr 1
    omega
  simp [State.fetchSlot, h, hi]

/-- A named slot exists and is where its pc says (10_state R25). -/
theorem slotOf_some {c : Config} {n k : Nat} {p : Int} (h : slotOf c n p = some k) : k < n ∧ p = c.codeBase + 4 * (k : Int) := by
  unfold slotOf at h
  dsimp only at h
  split at h
  · next hc =>
    simp only [Config.insnBytes] at hc h
    cases h
    omega
  · cases h

/-- A fetched slot is where its pc says, and holds what the table says (10_state R25, 30_encoding R93). -/
theorem State.fetchSlot_some {s : State} {p : Int} {k : Nat} {i : Instr} (h : s.fetchSlot p = some (k, i)) :
    s.code[k]? = some i ∧ p = s.cfg.codeBase + 4 * (k : Int) := by
  unfold State.fetchSlot at h
  split at h
  · next j hj =>
    obtain ⟨hlt, hp⟩ := slotOf_some hj
    simp only [List.getElem?_eq_getElem hlt, Option.map_some, Option.some.injEq, Prod.mk.injEq] at h
    obtain ⟨rfl, rfl⟩ := h
    exact ⟨List.getElem?_eq_getElem hlt, hp⟩
  · cases h

/-! ### The tick -/

/-- The tick of a RUNNING core is its stages in order (40_pipeline R120). -/
theorem tick_of_running {s : State} (h : s.status = .running) :
    step s = ((((((writeback { s with clock := s.clock + 1#64 }).andThen loadStore).andThen multiply).andThen integer).andThen
      decodeStage).andThen fetch) := by
  simp [step, tick, h]

/-- A core that is not RUNNING keeps every component (10_state R38). -/
theorem tick_of_not_running {s : State} (h : s.status ≠ .running) : step s = .next s := by
  cases hs : s.status <;> first | exact absurd hs h | simp [step, tick, hs]

end Sys2Proof.Machine
end

