-- ==== Sys2Proof/Laws/Safety.lean ====
section
/-! SUPPORT. The small lemmas of the terms in Safety.lean: the four holders one by one, runs of ticks, and readable latches. -/

namespace Sys2Proof.Machine

/-! ### The four holders -/

theorem Holder.forall_iff (p : Holder → Prop) : (∀ h, p h) ↔ p .wb ∧ p .int ∧ p .mul ∧ p .ls :=
  ⟨fun h => ⟨h _, h _, h _, h _⟩, fun ⟨a, b, c, d⟩ h => by cases h <;> assumption⟩

theorem Holder.exists_iff (p : Holder → Prop) : (∃ h, p h) ↔ p .wb ∨ p .int ∨ p .mul ∨ p .ls := by
  constructor
  · rintro ⟨h, hp⟩
    cases h
    · exact .inl hp
    · exact .inr (.inl hp)
    · exact .inr (.inr (.inl hp))
    · exact .inr (.inr (.inr hp))
  · rintro (h | h | h | h) <;> exact ⟨_, h⟩

@[simp] theorem State.held_wb (s : State) : s.held .wb = s.wb := rfl
@[simp] theorem State.held_int (s : State) : s.held .int = s.int := rfl
@[simp] theorem State.held_mul (s : State) : s.held .mul = s.mul := rfl
@[simp] theorem State.held_ls (s : State) : s.held .ls = s.ls := rfl

/-- The four holders as a list, so that a statement about them is decidable. -/
def Holder.all : List Holder := [.wb, .int, .mul, .ls]

theorem Holder.mem_all (h : Holder) : h ∈ Holder.all := by cases h <;> decide

/-- The invariant of a concrete state from decidable checks, each decided where it is used, given its occupied latches in dispatch
order. -/
theorem State.inv_of_checks (s : State) (hs : List Holder)
    (basic : s.status = .running ∧ s.fault = none ∧ s.cfg.wellFormed = true ∧ s.redirect = false := by decide)
    (memory : Memory.wf s.dmem ∧ ∀ p ∈ s.dmem, p.1 < s.cfg.dmemSize := by decide)
    (order : hs.Nodup ∧ (∀ h ∈ Holder.all, (h ∈ hs ↔ s.inFlight h)) ∧ s.rq = hs.map (fun h => (s.held h).seq)
      ∧ (s.wb.occ = true → hs.head? = some .wb) ∧ (s.int.occ = true → s.int.instr = .halt → hs.getLast? = some .int) := by decide)
    (busy : ∀ r : Reg, s.sb[r] = true ↔ ∃ h ∈ Holder.all, s.willWrite h r := by decide)
    (oneWriter : ∀ h ∈ Holder.all, ∀ k ∈ Holder.all, ∀ r : Reg, s.willWrite h r → s.willWrite k r → h = k := by decide)
    (held : ∀ h ∈ Holder.all, s.inFlight h →
      s.code[(s.held h).seq]? = some (s.held h).instr ∧ (s.held h).pc = s.cfg.codeBase + 4 * ((s.held h).seq : Int) := by decide)
    (decoded : s.d.occ = true → s.d.invalid = false →
      (s.code[s.d.seq]? = some s.d.instr ∧ s.d.pc = s.cfg.codeBase + 4 * (s.d.seq : Int))
        ∧ (s.d.phase = .awaitUnit → s.hazard s.d.instr = false) := by decide)
    (units : (s.int.occ = true → unitOf s.int.instr = .int ∧ s.int.st = .busy)
      ∧ (s.mul.occ = true → unitOf s.mul.instr = .mul
        ∧ ((s.mul.st = .busy ∧ s.mul.count < Config.mulLat) ∨ (s.mul.st = .done ∧ s.mul.count = Config.mulLat)))
      ∧ (s.ls.occ = true → unitOf s.ls.instr = .ls
        ∧ ((s.ls.st = .busy ∧ s.ls.count < Config.lsLat) ∨ (s.ls.st = .done ∧ s.ls.count = Config.lsLat)))
      ∧ (s.int.occ = false → s.int.st = .free) ∧ (s.mul.occ = false → s.mul.st = .free) ∧ (s.ls.occ = false → s.ls.st = .free) := by decide)
    (stops : (s.d.occ = true → (s.d.invalid = true ∨ s.d.instr = .halt) → s.fetchEn = false)
      ∧ (s.int.occ = true → s.int.instr = .halt → s.fetchEn = false ∧ s.d.occ = false)
      ∧ (s.wb.occ = true → s.wb.instr = .halt →
        s.fetchEn = false ∧ s.d.occ = false ∧ s.int.occ = false ∧ s.mul.occ = false ∧ s.ls.occ = false)
      ∧ (s.fetchEn = false → (s.d.occ = true ∧ (s.d.invalid = true ∨ s.d.instr = .halt))
        ∨ (s.int.occ = true ∧ s.int.instr = .halt) ∨ (s.wb.occ = true ∧ s.wb.instr = .halt)) := by decide) : s.Inv where
  running := basic.1
  noFault := basic.2.1
  params := basic.2.2.1
  memory := memory
  noRedirect := basic.2.2.2
  queue := ⟨hs, order.1, fun h => order.2.1 h h.mem_all, order.2.2⟩
  busy := fun r => (busy r).trans ⟨fun ⟨h, _, w⟩ => ⟨h, w⟩, fun ⟨h, w⟩ => ⟨h, h.mem_all, w⟩⟩
  oneWriter := fun r h k => oneWriter h h.mem_all k k.mem_all r
  heldFromTable := fun h => held h h.mem_all
  decodeFromTable := fun o i => (decoded o i).1
  awaitClear := fun o i => (decoded o i).2
  intUnit := units.1
  mulUnit := units.2.1
  lsUnit := units.2.2.1
  emptyFree := units.2.2.2
  decodeStops := stops.1
  haltInInt := stops.2.1
  haltInWb := stops.2.2.1
  stopHasCause := stops.2.2.2

/-! ### Runs of ticks -/

@[simp] theorem ticks_zero (s : State) : ticks 0 s = .next s := rfl

theorem ticks_succ_of_step {n : Nat} {s t : State} (h : step s = .next t) : ticks (n + 1) s = ticks n t := by
  simp [ticks, h]

theorem ticks_one (s : State) {t : State} (h : step s = .next t) : ticks 1 s = .next t := by
  rw [ticks_succ_of_step h, ticks_zero]

/-! ### Readable latches -/

@[simp] theorem Latch.readable_of_occ {l : Latch} (h : l.occ = true) : l.readable = l := by simp [Latch.readable, h]
@[simp] theorem DecodeLatch.readable_of_occ {l : DecodeLatch} (h : l.occ = true) : l.readable = l := by
  simp [DecodeLatch.readable, h]
@[simp] theorem Latch.readable_occ (l : Latch) : l.readable.occ = l.occ := by
  cases h : l.occ <;> simp [Latch.readable, Latch.empty, h]
@[simp] theorem Latch.readable_st (l : Latch) : l.readable.st = l.st := by
  cases h : l.occ <;> simp [Latch.readable, h]
@[simp] theorem DecodeLatch.readable_occ (l : DecodeLatch) : l.readable.occ = l.occ := by
  cases h : l.occ <;> simp [DecodeLatch.readable, DecodeLatch.empty, Latch.empty, h]

/-! ### Routing -/

theorem State.routed_of_inv {s : State} (h : s.Inv) : s.routed :=
  ⟨fun o => (h.intUnit o).1, fun o => (h.mulUnit o).1, fun o => (h.lsUnit o).1⟩

theorem accessAddress_of_stored {i : Instr} {l : Latch} {ea : Int} (h : storedAddress i l = some ea) :
    accessAddress i l = some ea := by
  cases i <;> simp_all [storedAddress, accessAddress]

/-- Only a Load/Store instruction accesses an address. -/
theorem unitOf_of_accessAddress {i : Instr} {l : Latch} {ea : Int} (h : accessAddress i l = some ea) : unitOf i = .ls := by
  cases i <;> simp_all [accessAddress, unitOf]

theorem isBranch_iff {i : Instr} : isBranch i = true ↔ ∃ imm, i = .bz imm ∨ i = .bnz imm := by
  cases i <;> simp [isBranch]

/-- An instruction computes a store address exactly when it is a STORE or an STR. -/
theorem storedAddress_eq_some {i : Instr} {l : Latch} {ea : Int} :
    storedAddress i l = some ea ↔ (∃ rs1 rs2 imm, i = .store rs1 rs2 imm ∧ ea = baseImm l.b imm) ∨
      (∃ rs1 rs2 rs3, i = .str rs1 rs2 rs3 ∧ ea = baseIndex l.b l.c) := by
  cases i <;> simp [storedAddress, eq_comm]

end Sys2Proof.Machine
end

