-- ==== Sys2Proof/Laws/Place.lean ====
section
/-! SUPPORT. What placing an instruction does: the core's own Fetch and Decode take it to its unit, and the next tick runs `exec` of it
(log 5). -/

namespace Sys2Proof.Machine

/-- The loaded core is the emptied one with a table and a pc that names the instruction's slot. -/
theorem loadAtFetch_eq (s : State) (i : Instr) :
    ∃ (code : List Instr) (k : Nat), code[k]? = some i ∧
      loadAtFetch s i = { s.emptied with code := code, pc := s.cfg.codeBase + 4 * (k : Int) } := by
  cases h : slotOf s.cfg s.code.length s.pc with
  | some k =>
    obtain ⟨hk, hp⟩ := slotOf_some h
    exact ⟨s.code.set k i, k, by simp [hk], by rw [← hp]; simp only [loadAtFetch, h]; rfl⟩
  | none => exact ⟨[i], 0, rfl, by simp [loadAtFetch, h]⟩

/-- A core with no reserved register has no hazard. -/
theorem State.hazard_of_clear {s : State} (h : s.sb = Vector.replicate 16 false) (i : Instr) : s.hazard i = false := by
  simp [State.hazard, h]

/-- The placed instruction is alone in the core: dispatched from its slot with its operands read, at the queue head, before the cycle
in which its unit computes. -/
theorem placeAtFetch_ready (s : State) (i : Instr) :
    ∃ k : Nat, (placeAtFetch s i).code[k]? = some i ∧ (placeAtFetch s i).status = .running ∧ (placeAtFetch s i).rq = [k] ∧
      (placeAtFetch s i).wb.occ = false ∧ (placeAtFetch s i).d.occ = false ∧
      (∀ u, u ≠ unitOf i → ((placeAtFetch s i).unit u).occ = false) ∧
      ((placeAtFetch s i).unit (unitOf i)).occ = true ∧ ((placeAtFetch s i).unit (unitOf i)).st = .busy ∧
      ((placeAtFetch s i).unit (unitOf i)).count = cyclesBeforeFinal (unitOf i) ∧
      ((placeAtFetch s i).unit (unitOf i)).instr = i ∧ ((placeAtFetch s i).unit (unitOf i)).seq = k ∧
      ((placeAtFetch s i).unit (unitOf i)).operandsFrom s.x ∧
      (placeAtFetch s i).x = s.x ∧ (placeAtFetch s i).z = s.z ∧ (placeAtFetch s i).dmem = s.dmem := by
  obtain ⟨code, k, hi, he⟩ := loadAtFetch_eq s i
  have hs : (loadAtFetch s i).fetchSlot (loadAtFetch s i).pc = some (k, i) := by
    rw [he]; exact State.fetchSlot_of_slot (s := { s.emptied with code := code, pc := s.cfg.codeBase + 4 * (k : Int) }) hi
  have hf : fetch (loadAtFetch s i) = .next { loadAtFetch s i with
      f := { (loadAtFetch s i).f with instr := i, seq := k, pc := (loadAtFetch s i).pc }
      d := fetched (loadAtFetch s i) k i
      pc := (loadAtFetch s i).pc + Config.insnBytes
      fetchEn := decide (i ≠ .halt) } := by
    rcases fetch_cases (loadAtFetch s i) with ⟨h, -⟩ | ⟨-, h, -⟩ | ⟨-, -, -, k', i', h, e⟩ | ⟨-, -, -, h, -⟩
    · simp [he, State.emptied] at h
    · simp [he, State.emptied] at h
    · rw [hs] at h; cases h; exact e
    · rw [hs] at h; cases h
  generalize ht : ({ loadAtFetch s i with
      f := { (loadAtFetch s i).f with instr := i, seq := k, pc := (loadAtFetch s i).pc }
      d := fetched (loadAtFetch s i) k i
      pc := (loadAtFetch s i).pc + Config.insnBytes
      fetchEn := decide (i ≠ .halt) } : State) = t at hf
  have hd : t.d.instr = i ∧ t.d.seq = k ∧ t.d.occ = true ∧ t.d.invalid = false ∧ t.d.phase = .check := by
    subst ht; exact ⟨rfl, rfl, rfl, rfl, rfl⟩
  have ho : t.code[k]? = some i ∧ t.status = .running ∧ t.rq = [] ∧ t.sb = Vector.replicate 16 false ∧ t.wb.occ = false ∧
      (∀ u, (t.unit u).occ = false) ∧ t.x = s.x ∧ t.z = s.z ∧ t.dmem = s.dmem := by
    subst ht
    rw [he]
    exact ⟨hi, rfl, rfl, rfl, rfl, fun u => by cases u <;> rfl, rfl, rfl, rfl⟩
  obtain ⟨hin, hseq, hocc, hinv, hph⟩ := hd
  obtain ⟨hcode, hrun, hrq, hsb, hwb, hunit, hx, hz, hm⟩ := ho
  have hdec : decodeStage t = .next (afterDispatch t.readOperands) := by
    have h0 : decodeStage t = dispatch t.readOperands := by
      simp [decodeStage, hocc, hinv, hph, State.hazard_of_clear hsb]
    have hu : (t.readOperands.unit (unitOf t.readOperands.d.instr)).occ = false := by
      have := hunit (unitOf t.d.instr)
      cases hk : unitOf t.d.instr <;> simpa [State.unit, hk] using this
    rcases dispatch_cases t.readOperands with ⟨h, -⟩ | ⟨-, h, -⟩ | ⟨-, -, h⟩
    · rw [hu] at h; cases h
    · simp [hrq, Config.rqCap] at h
    · rw [h0, h]
  have hp : placeAtFetch s i = (afterDispatch t.readOperands).setUnit (unitOf i)
      { (afterDispatch t.readOperands).unit (unitOf i) with count := cyclesBeforeFinal (unitOf i) } := by
    simp [placeAtFetch, hf, hrun, hdec]
  have hops : ∀ l : Latch, l.instr = t.d.instr → l.a = t.sourceValue t.d.instr 0 t.d.a → l.b = t.sourceValue t.d.instr 1 t.d.b →
      l.c = t.sourceValue t.d.instr 2 t.d.c → l.operandsFrom s.x := by
    rintro l e ha hb hc
    refine ⟨fun r h => ?_, fun r h => ?_, fun r h => ?_⟩ <;> rw [e] at h
    · rw [ha, ← hx]; simp [State.sourceValue, h]
    · rw [hb, ← hx]; simp [State.sourceValue, h]
    · rw [hc, ← hx]; simp [State.sourceValue, h]
  have h1 := hunit .int
  have h2 := hunit .mul
  have h3 := hunit .ls
  simp only [State.unit] at h1 h2 h3
  subst hin
  rw [hp]
  refine ⟨k, ?_, ?_, ?_, ?_, ?_, ?_, ?_, ?_, ?_, ?_, ?_, hops _ ?_ ?_ ?_ ?_, ?_, ?_, ?_⟩
  case refine_6 =>
    intro u hne
    cases hk : unitOf t.d.instr <;> cases u <;> first
      | exact absurd hk.symm hne
      | (cases hdst : destOf t.d.instr <;>
          simp [afterDispatch, State.setUnit, State.unit, State.readOperands, State.reserve, State.setBusy, hk, hdst, h1, h2, h3])
  all_goals
    cases hk : unitOf t.d.instr <;> cases hdst : destOf t.d.instr <;>
      simp [afterDispatch, State.setUnit, State.unit, State.readOperands, State.reserve, State.setBusy, hk, hdst, hcode, hrun, hrq,
        hwb, hseq, hx, hz, hm]

/-- What the tick of a placed instruction runs: `exec` of it in a state that differs from the placed one in the tick counter and in
the unit's cycle count, after which the tick goes on (40_pipeline R120, R150, R155, R160; log 5). -/
theorem step_placeAtFetch (s : State) (i : Instr) :
    ∃ (n : Nat) (rest : State → Result),
      step (placeAtFetch s i) =
        Result.andThen (exec i (({ placeAtFetch s i with clock := (placeAtFetch s i).clock + 1#64 } : State).setUnit (unitOf i)
          { (placeAtFetch s i).unit (unitOf i) with count := n })) rest := by
  obtain ⟨k, -, hrun, hrq, hwb, -, hempty, hocc, hst, hcnt, hin, hseq, -⟩ := placeAtFetch_ready s i
  generalize placeAtFetch s i = p at *
  have hw : writeback { p with clock := p.clock + 1#64 } = .next { p with clock := p.clock + 1#64 } := by
    simp [writeback, hwb]
  rw [tick_of_running hrun, hw]
  have hrun : ({ p with clock := p.clock + 1#64 } : State).status = .running := hrun
  rw [Result.andThen_next_of_running _ hrun]
  cases hu : unitOf i with
  | int =>
    have hm : p.mul.occ = false := hempty .mul (by simp [hu])
    have hl : p.ls.occ = false := hempty .ls (by simp [hu])
    simp only [hu, State.unit] at hocc hseq hin
    refine ⟨p.int.count, fun t => (handOff .int (t.setUnit .int { t.int with st := .done })).andThen fun t =>
      (decodeStage t).andThen fetch, ?_⟩
    have e1 : loadStore { p with clock := p.clock + 1#64 } = .next { p with clock := p.clock + 1#64 } := by simp [loadStore, hl]
    have e2 : multiply { p with clock := p.clock + 1#64 } = .next { p with clock := p.clock + 1#64 } := by simp [multiply, hm]
    rw [e1, Result.andThen_next_of_running _ hrun, e2, Result.andThen_next_of_running _ hrun]
    rcases integer_cases { p with clock := p.clock + 1#64 } with ⟨h, -⟩ | ⟨-, h, -⟩ | ⟨-, h, q, e, ⟨h', -⟩ | ⟨-, e3⟩⟩
    · exact absurd (hocc.symm.trans h) (by decide)
    · exact absurd (hrq.symm.trans h) (by simp)
    · exact absurd (by have := hrq.symm.trans e; simp at this; exact this.1.symm.trans hseq.symm) h'
    · subst hin
      rw [e3]
      simp only [Result.andThen_assoc]
      rfl
  | mul =>
    have hl : p.ls.occ = false := hempty .ls (by simp [hu])
    simp only [hu, State.unit] at hocc hseq hin hst hcnt
    refine ⟨p.mul.count + 1, fun t => Result.andThen (.next (t.setUnit .mul { t.mul with st := .done })) fun t =>
      Result.andThen (if t.mul.st = .done then handOff .mul t else .next t) fun t =>
        (integer t).andThen fun t => (decodeStage t).andThen fetch, ?_⟩
    have e1 : loadStore { p with clock := p.clock + 1#64 } = .next { p with clock := p.clock + 1#64 } := by simp [loadStore, hl]
    rw [e1, Result.andThen_next_of_running _ hrun,
      multiply_final (s := { p with clock := p.clock + 1#64 }) hocc hst (by simp [hcnt, cyclesBeforeFinal, Config.mulLat])]
    simp only [Result.andThen_assoc, hin, State.unit]
  | ls =>
    simp only [hu, State.unit] at hocc hseq hin hst hcnt
    refine ⟨p.ls.count + 1, fun t => Result.andThen (.next (t.setUnit .ls { t.ls with st := .done })) fun t =>
      Result.andThen (if t.ls.st = .done then handOff .ls t else .next t) fun t =>
        (multiply t).andThen fun t => (integer t).andThen fun t => (decodeStage t).andThen fetch, ?_⟩
    rw [loadStore_final (s := { p with clock := p.clock + 1#64 }) hocc hst (by simp [hcnt, cyclesBeforeFinal, Config.lsLat])]
    simp only [Result.andThen_assoc, hin, State.unit]

end Sys2Proof.Machine
end

