-- ==== Sys2Proof/Tests/Slice0.lean ====
section
/-! SUPPORT. The model's own tests, with expected results from spec/95_test_vectors.md and the rules' own examples, and a witness for
the hypotheses of every obligation. -/

namespace Sys2Proof.Tests

open Sys2Proof Sys2Proof.Machine

/-! ### Helpers -/

/-- A fresh core with CODE_BASE 4000 and 16 data cells. -/
def idle (p : OverflowPolicy) (code : List Instr) : State :=
  State.constructed { codeBase := 4000, dmemSize := 16, overflow := p } code

/-- An occupied latch for slot `k`. -/
def latchOf (i : Instr) (k : Nat) (a b c : Word) : Latch :=
  { Latch.empty with occ := true, instr := i, seq := k, pc := 4000 + 4 * k, a := a, b := b, c := c, st := .busy }

/-- The instruction of slot 0 in the Integer unit, at the queue head. -/
def inInt (p : OverflowPolicy) (i : Instr) (a b : Word) (z : Bool) : State :=
  { idle p [i] with int := latchOf i 0 a b 0#32, rq := [0], pc := 4004, z := z, clock := 5#64 }

/-- The instruction of slot 0 in the Multiplier, at the queue head, before its final cycle. -/
def inMul (p : OverflowPolicy) (i : Instr) (a b : Word) : State :=
  { idle p [i] with mul := { latchOf i 0 a b 0#32 with count := 2 }, rq := [0], pc := 4004, clock := 5#64 }

/-- The instruction of slot 0 in the Load/Store unit, at the queue head, before its final cycle, with 42 in cell 13. -/
def inLs (i : Instr) (a b c : Word) : State :=
  { idle .fault [i] with
    ls := { latchOf i 0 a b c with count := 3 }, rq := [0], pc := 4004, clock := 5#64, dmem := [(13, 42#32)] }

/-- The instruction of slot 0 alone in the Decode latch, nothing more fetched. -/
def inDecode (i : Instr) : State :=
  { idle .fault [i] with d := { latchOf i 0 0#32 0#32 0#32 with phase := .check, invalid := false }, pc := 4004, fetchEn := false }

/-- What a component of the next state is, if there is a next state. -/
def after {α : Type} (r : Result) (f : State → α) : Option α :=
  match r with
  | .next t => some (f t)
  | .fault _ => none
  | .refused _ => none

def maxWord : Word := 0x7FFFFFFF#32
def minWord : Word := 0x80000000#32

/-! ### The loader's check (60_exceptions R323): one ill-formed record for each check -/

theorem test_wellFormed_accepts_the_extremes : (Record.mk 18 15 15 15 15 (2 ^ 31 - 1)).wellFormed = true
    ∧ (Record.mk 0 0 0 0 0 (-2 ^ 31)).wellFormed = true := by decide
theorem test_wellFormed_refuses_opcode_19 : (Record.mk 19 0 0 0 0 0).wellFormed = false := by decide
theorem test_wellFormed_refuses_rd_16 : (Record.mk 0 16 0 0 0 0).wellFormed = false := by decide
theorem test_wellFormed_refuses_rs1_16 : (Record.mk 0 0 16 0 0 0).wellFormed = false := by decide
theorem test_wellFormed_refuses_rs2_16 : (Record.mk 0 0 0 16 0 0).wellFormed = false := by decide
theorem test_wellFormed_refuses_rs3_16 : (Record.mk 0 0 0 0 16 0).wellFormed = false := by decide
theorem test_wellFormed_refuses_imm_above : (Record.mk 10 0 0 0 0 (2 ^ 31)).wellFormed = false := by decide
theorem test_wellFormed_refuses_imm_below : (Record.mk 10 0 0 0 0 (-2 ^ 31 - 1)).wellFormed = false := by decide
theorem test_record_refusals_are_named : (Record.mk 19 0 0 0 0 0).toInstr = .error (.unknownOpcode 19)
    ∧ (Record.mk 0 0 0 16 0 0).toInstr = .error .registerOutOfRange
    ∧ (Record.mk 10 0 0 0 0 (2 ^ 31)).toInstr = .error .immediateOutOfRange := by decide

/-! ### Decoding (30_encoding R82 to R89; the words of R97 and of 95_test_vectors sections 2.1, 2.6 and 2.7) -/

/-- Register form `0x4260 + op`: rd = 3 at [8:5], rs1 = 1 at [12:9], rs2 = 2 at [16:13]. -/
theorem test_decode_register_form : decode 0x4260#64 = .ok (.add 3 1 2) ∧ decode 0x4262#64 = .ok (.sub 3 1 2)
    ∧ decode 0x4264#64 = .ok (.mul 3 1 2) ∧ decode 0x4265#64 = .ok (.div 3 1 2) ∧ decode 0x4266#64 = .ok (.and 3 1 2)
    ∧ decode 0x4267#64 = .ok (.or 3 1 2) ∧ decode 0x4268#64 = .ok (.xor 3 1 2) := by decide
/-- Immediate form `imm << 32 | 0x260 + op`; 0xFFFFFFF9 is -7. -/
theorem test_decode_immediate_form : decode 0x0000000100000261#64 = .ok (.addl 3 1 1#32)
    ∧ decode 0xFFFFFFF900000261#64 = .ok (.addl 3 1 (BitVec.ofInt 32 (-7)))
    ∧ decode 0x8000000000000263#64 = .ok (.subl 3 1 (BitVec.ofInt 32 (-2147483648))) := by decide
theorem test_decode_cmp : decode 0x4209#64 = .ok (.cmp 1 2) := by decide
theorem test_decode_movc : decode 0xFFFFFFFF0000006A#64 = .ok (.movc 3 (BitVec.ofInt 32 (-1))) := by decide
/-- `LOAD R2,R1,#1`: 1 << 32, rs1 = 1 << 9, rd = 2 << 5, op 11. -/
theorem test_decode_load : decode 0x000000010000024B#64 = .ok (.load 2 1 1#32) := by decide
/-- `STORE R1,R2,#-1`: -1 << 32, rs2 = 2 << 13, rs1 = 1 << 9, op 12. -/
theorem test_decode_store : decode 0xFFFFFFFF0000420C#64 = .ok (.store 1 2 (BitVec.ofInt 32 (-1))) := by decide
/-- `LDR R4,R1,R2`: rs2 = 2 << 13, rs1 = 1 << 9, rd = 4 << 5, op 13. -/
theorem test_decode_ldr : decode 0x000000000000428D#64 = .ok (.ldr 4 1 2) := by decide
theorem test_decode_str : decode 0x000000000004260E#64 = .ok (.str 3 1 2) := by decide
theorem test_decode_branches : decode 0x000000080000000F#64 = .ok (.bz 8#32)
    ∧ decode 0xFFFFFFF800000010#64 = .ok (.bnz (BitVec.ofInt 32 (-8))) := by decide
theorem test_decode_nop_and_halt : decode 0x11#64 = .ok .nop ∧ decode 0x12#64 = .ok .halt := by decide
/-- R87: a NOP with every unused field set is the same NOP. -/
theorem test_decode_ignores_unused_fields : decode 0xFFFFFFFF001FFFF1#64 = .ok .nop := by decide
/-- R89: the first and the last reserved opcode, and each end of the reserved bits. -/
theorem test_decode_refuses_reserved : decode 0x13#64 = .error (.unknownOpcode 19) ∧ decode 0x1F#64 = .error (.unknownOpcode 31)
    ∧ decode 0x0000000000200011#64 = .error .reservedBits ∧ decode 0x0000000080000011#64 = .error .reservedBits := by decide
theorem test_encode_register_form : encode (.xor 3 1 2) = 0x4268#64 ∧ encode (.ldr 4 1 2) = 0x428D#64 := by decide
theorem test_decodeTableWord : decodeTableWord 64 0x4209 = some (.cmp 1 2) ∧ decodeTableWord 64 0x13 = none
    ∧ decodeTableWord 4 0x4209 = none := by decide
/-- 40_pipeline R128: the first tick of a fresh core fetches slot 0. -/
theorem test_step_fetches_slot_0 : after (step (idle .fault [.div 3 1 2])) (fun t => (t.d.occ, t.d.invalid, t.d.instr, t.d.pc, t.pc))
    = some (true, false, .div 3 1 2, 4000, 4004) := by decide
/-- 40_pipeline R128, R34: the Fetch latch shows the instruction fetched, and its `occ` stays 0. -/
theorem test_fetch_latch_shows_the_fetch : after (step (idle .fault [.div 3 1 2])) (fun t => (t.f.occ, t.f.instr, t.f.seq, t.f.pc))
    = some (false, .div 3 1 2, 0, 4000) := by decide
/-- The next step runs the placed `MOVC R3,#-1`: its result is in Writeback and Z is its Z. -/
theorem test_step_runs_a_placed_movc : after (step (State.reset.withFetchWord 64 0xFFFFFFFF0000006A))
    (fun t => (t.wb.occ, t.wb.instr, t.wb.res, t.z)) = some (true, .movc 3 (BitVec.ofInt 32 (-1)), BitVec.ofInt 32 (-1), false) := by
  decide
/-- The next step runs the placed `DIV R3,R1,R2` on the reset registers: it faults. -/
theorem test_step_runs_a_placed_div : after (step (State.reset.withFetchWord 64 0x4265)) (fun t => t.fault.map (fun r => (r.kind, r.seq)))
    = some (some (.divideByZeroFault, some 0)) := by decide
/-- The next step runs the placed `MUL R3,R1,R2`: 0 * 0 sets Z. -/
theorem test_step_runs_a_placed_mul : after (step (State.reset.withFetchWord 64 0x4264)) (fun t => (t.wb.occ, t.wb.instr, t.wb.res, t.z))
    = some (true, .mul 3 1 2, 0#32, true) := by decide
/-- The next step runs the placed `STORE R1,R2,#-1`: its address is -1. -/
theorem test_step_runs_a_placed_store : after (step (State.reset.withFetchWord 64 0xFFFFFFFF0000420C))
    (fun t => t.fault.map (fun r => (r.kind, r.addr))) = some (some (.addressFault, some (-1))) := by decide
/-- The next step runs the placed `BNZ #-8`: Z is 0, so pc goes to 3992. -/
theorem test_step_runs_a_placed_bnz : after (step (State.reset.withFetchWord 64 0xFFFFFFF800000010)) (fun t => t.pc) = some 3992 := by
  decide

/-! ### What each instruction computes (95_test_vectors sections 2.2 to 2.7) -/

/-- AR3, AR4 under `wrap`. -/
theorem test_add_wraps : after (exec (.add 3 1 2) (inInt .wrap (.add 3 1 2) maxWord 1#32 true)) (fun t => (t.int.res, t.z))
    = some (minWord, false) := by decide
/-- AR2: 5 + -5 sets Z. -/
theorem test_add_sets_z : after (exec (.add 3 1 2) (inInt .fault (.add 3 1 2) 5#32 (BitVec.ofInt 32 (-5)) false))
    (fun t => (t.int.res, t.z)) = some (0#32, true) := by decide
/-- AR7. -/
theorem test_addl_overflows : after (exec (.addl 3 1 1#32) (inInt .fault (.addl 3 1 1#32) maxWord 0#32 true))
    (fun t => (t.status, t.fault, t.z))
    = some (.faulted, some { kind := .overflowFault, seq := some 0, addr := none, cycle := 5#64 }, true) := by decide
/-- AR12: 3 - 10, not 10 - 3. -/
theorem test_sub_order : after (exec (.sub 3 1 2) (inInt .fault (.sub 3 1 2) 3#32 10#32 true)) (fun t => (t.int.res, t.z))
    = some (BitVec.ofInt 32 (-7), false) := by decide
/-- AR11: 0 - MIN. -/
theorem test_sub_overflows : after (exec (.sub 3 1 2) (inInt .fault (.sub 3 1 2) 0#32 minWord true)) (fun t => t.status)
    = some .faulted := by decide
/-- AR14, and AR16 under `wrap`. -/
theorem test_subl_zero : after (exec (.subl 3 1 1#32) (inInt .fault (.subl 3 1 1#32) 1#32 0#32 false)) (fun t => (t.int.res, t.z))
    = some (0#32, true) := by decide
theorem test_subl_wraps : after (exec (.subl 3 1 minWord) (inInt .wrap (.subl 3 1 minWord) 0#32 0#32 false))
    (fun t => (t.int.res, t.z)) = some (minWord, false) := by decide
/-- MU4 under `wrap`: 65536 * 65536 is 0 and sets Z. -/
theorem test_mul_wraps : after (exec (.mul 3 1 2) (inMul .wrap (.mul 3 1 2) 65536#32 65536#32)) (fun t => (t.mul.res, t.z))
    = some (0#32, true) := by decide
/-- MU2. -/
theorem test_mul_signed : after (exec (.mul 3 1 2) (inMul .fault (.mul 3 1 2) (BitVec.ofInt 32 (-3)) 4#32))
    (fun t => (t.mul.res, t.z)) = some (BitVec.ofInt 32 (-12), false) := by decide
/-- DV2: 7 / -2 rounds toward zero. -/
theorem test_div_rounds_toward_zero : after (exec (.div 3 1 2) (inInt .fault (.div 3 1 2) 7#32 (BitVec.ofInt 32 (-2)) true))
    (fun t => (t.int.res, t.z)) = some (BitVec.ofInt 32 (-3), false) := by decide
/-- DV6: 0 / 0. -/
theorem test_div_by_zero : after (exec (.div 3 1 2) (inInt .wrap (.div 3 1 2) 0#32 0#32 false)) (fun t => (t.fault, t.z))
    = some (some { kind := .divideByZeroFault, seq := some 0, addr := none, cycle := 5#64 }, false) := by decide
/-- BW2, BW6, BW8. -/
theorem test_and_disjoint : after (exec (.and 3 1 2) (inInt .fault (.and 3 1 2) 5#32 10#32 false)) (fun t => (t.int.res, t.z))
    = some (0#32, true) := by decide
theorem test_or_sign : after (exec (.or 3 1 2) (inInt .fault (.or 3 1 2) minWord 1#32 true)) (fun t => (t.int.res, t.z))
    = some (BitVec.ofInt 32 (-2147483647), false) := by decide
theorem test_xor_self : after (exec (.xor 3 1 2) (inInt .fault (.xor 3 1 2) (BitVec.ofInt 32 (-1)) (BitVec.ofInt 32 (-1)) false))
    (fun t => (t.int.res, t.z)) = some (0#32, true) := by decide
/-- BW12: MIN against MAX is not equal and does not overflow. -/
theorem test_cmp_extremes : after (exec (.cmp 1 2) (inInt .fault (.cmp 1 2) minWord maxWord true)) (fun t => (t.z, t.status, t.int.res))
    = some (false, .running, 0#32) := by decide
/-- BW13. -/
theorem test_movc_zero : after (exec (.movc 3 0#32) (inInt .fault (.movc 3 0#32) 7#32 7#32 false)) (fun t => (t.int.res, t.z))
    = some (0#32, true) := by decide
/-- The last cell reads; one past it faults with its exact address (LS1, LS2, for 16 cells). -/
theorem test_load_last_cell : after (exec (.load 2 1 (BitVec.ofInt 32 (-2))) (inLs (.load 2 1 (BitVec.ofInt 32 (-2))) 15#32 0#32 0#32))
    (fun t => (t.ls.ea, t.ls.res)) = some (13, 42#32) := by decide
/-- LS8: the address does not wrap. -/
theorem test_load_address_is_exact : after (exec (.load 2 1 1#32) (inLs (.load 2 1 1#32) maxWord 0#32 0#32)) (fun t => t.fault)
    = some (some { kind := .addressFault, seq := some 0, addr := some 2147483648, cycle := 5#64 }) := by decide
/-- LS9: the first source is the value, the second the base. -/
theorem test_store_roles : after (exec (.store 2 1 4#32) (inLs (.store 2 1 4#32) (BitVec.ofInt 32 (-8)) 3#32 0#32)) (fun t => t.dmem)
    = some [(7, BitVec.ofInt 32 (-8)), (13, 42#32)] := by decide
/-- LS4: -1 faults and writes nothing. -/
theorem test_store_below_zero : after (exec (.store 1 2 (BitVec.ofInt 32 (-1)))
    (inLs (.store 1 2 (BitVec.ofInt 32 (-1))) 5#32 0#32 0#32)) (fun t => (t.status, t.dmem, t.fault.bind (·.addr)))
    = some (.faulted, [(13, 42#32)], some (-1)) := by decide
/-- LS6. -/
theorem test_ldr_sum : after (exec (.ldr 4 1 2) (inLs (.ldr 4 1 2) 6#32 7#32 0#32)) (fun t => t.ls.res) = some 42#32 := by decide
/-- LS5, with the base inside 16 cells: a negative index, and the value in the first source. -/
theorem test_str_roles : after (exec (.str 1 2 3) (inLs (.str 1 2 3) 9#32 10#32 (BitVec.ofInt 32 (-1)))) (fun t => t.dmem)
    = some [(9, 9#32), (13, 42#32)] := by decide
/-- 44_control R290: taken at 4000 with #8; and with Z = 0 not taken. -/
theorem test_bz_taken : after (exec (.bz 8#32) (inInt .fault (.bz 8#32) 0#32 0#32 true)) (fun t => (t.pc, t.redirect, t.fetchEn, t.d.occ))
    = some (4008, true, true, false) := by decide
theorem test_bz_not_taken : after (exec (.bz 8#32) (inInt .fault (.bz 8#32) 0#32 0#32 false)) (fun t => (t.pc, t.redirect))
    = some (4004, false) := by decide
/-- 44_control R292: a backward BNZ. -/
theorem test_bnz_taken : after (exec (.bnz (BitVec.ofInt 32 (-8))) (inInt .fault (.bnz (BitVec.ofInt 32 (-8))) 0#32 0#32 false))
    (fun t => t.pc) = some 3992 := by decide
theorem test_bnz_not_taken : after (exec (.bnz 8#32) (inInt .fault (.bnz 8#32) 0#32 0#32 true)) (fun t => t.pc) = some 4004 := by decide
/-- 44_control R294: the tick in which a NOP computes hands it to Writeback. -/
theorem test_nop_hands_off : after (step (inInt .fault .nop 0#32 0#32 true)) (fun t => (t.int.occ, t.wb.occ, t.wb.instr, t.z))
    = some (false, true, .nop, true) := by decide
/-- 40_pipeline R129: fetching a HALT disables fetching. -/
theorem test_halt_stops_fetch : after (step (idle .fault [.halt])) (fun t => (t.fetchEn, t.d.instr, t.pc)) = some (false, .halt, 4004) := by
  decide
/-- 40_pipeline R166: retiring a HALT ends the run. -/
theorem test_halt_retires : after (step { idle .fault [.halt] with wb := latchOf .halt 0 0#32 0#32 0#32, rq := [0], fetchEn := false })
    (fun t => (t.status, t.retired, t.rq, t.wb.occ)) = some (.halted, 1#64, [], false) := by decide

/-! ### Witnesses: states and operands that meet the hypotheses of each obligation -/

/-- `DecodeReadsOnlyTheUsedBits`: two different words of one NOP. -/
theorem witness_DecodeReadsOnlyTheUsedBits : decode 0x11#64 = .ok .nop
    ∧ 0xFFFFFFFF001FFFF1#64 &&& usedBits .nop = 0x11#64 &&& usedBits .nop ∧ 0xFFFFFFFF001FFFF1#64 ≠ 0x11#64 := by decide

/-- `ConstructionAcceptsExactlyLegalTables`, `ConstructionSetsEveryResetValue`: a legal table, a table with an illegal second slot,
and the empty table. -/
theorem witness_construction_tables : (∀ w ∈ [0x4260#64, 0x12#64], ∃ i, decode w = .ok i)
    ∧ (∃ w ∈ [0x12#64, 0x13#64], ∃ r, decode w = .error r)
    ∧ [0x4260#64, 0x12#64].map decode = [Instr.add 3 1 2, .halt].map Except.ok
    ∧ ([] : List CodeWord).map decode = ([] : List Instr).map Except.ok := by
  refine ⟨?_, ⟨0x13#64, by decide, .unknownOpcode 19, by decide⟩, by decide, rfl⟩
  intro w hw
  rcases List.mem_cons.mp hw with rfl | hw
  · exact ⟨.add 3 1 2, by decide⟩
  · exact ⟨.halt, by rw [List.mem_singleton.mp hw]; decide⟩

/-- `ConstructedCoreMeetsThePipelineInvariant`. -/
theorem witness_ConstructedCoreMeetsThePipelineInvariant : Config.default.wellFormed = true := by decide

/-- `TickRunsTheFetchedInstruction`, one state per clause: slot 0 and the last slot to fetch, and each unit alone on its last cycle. -/
theorem witness_TickRunsTheFetchedInstruction :
    (let s := idle .fault [.nop, .halt];
      s.status = .running ∧ s.wb.occ = false ∧ s.int.occ = false ∧ s.mul.occ = false ∧ s.ls.occ = false ∧ s.d.occ = false
        ∧ s.redirect = false ∧ s.fetchEn = true ∧ s.code[0]? = some .nop ∧ s.pc = s.cfg.codeBase + 4 * ((0 : Nat) : Int))
    ∧ (let s := { idle .fault [.nop, .halt] with pc := 4004 };
      s.code[1]? = some .halt ∧ s.pc = s.cfg.codeBase + 4 * ((1 : Nat) : Int))
    ∧ (let s := inInt .fault (.add 3 1 2) 5#32 0#32 true;
      s.status = .running ∧ s.wb.occ = false ∧ s.mul.occ = false ∧ s.ls.occ = false ∧ s.int.occ = true ∧ s.rq = s.int.seq :: [])
    ∧ (let s := inMul .fault (.mul 3 1 2) 6#32 7#32;
      s.status = .running ∧ s.wb.occ = false ∧ s.ls.occ = false ∧ s.mul.occ = true ∧ s.mul.st = .busy ∧ s.mul.count = 2)
    ∧ (let s := inLs (.load 2 1 0#32) 13#32 0#32 0#32;
      s.status = .running ∧ s.wb.occ = false ∧ s.ls.occ = true ∧ s.ls.st = .busy ∧ s.ls.count = 3) := by decide

/-- `ArithmeticResultInRange`: the greatest word by ADD and ADDL, the least by SUB and SUBL, and a product. -/
theorem witness_ArithmeticResultInRange :
    maxWord.toInt = (inInt .fault .nop (maxWord - 1#32) 1#32 true).int.a.toInt + (inInt .fault .nop (maxWord - 1#32) 1#32 true).int.b.toInt
    ∧ maxWord.toInt = (inInt .fault .nop (maxWord - 1#32) 1#32 true).int.a.toInt + (1#32 : Word).toInt
    ∧ minWord.toInt = (inInt .fault .nop (minWord + 1#32) 1#32 true).int.a.toInt - (inInt .fault .nop (minWord + 1#32) 1#32 true).int.b.toInt
    ∧ minWord.toInt = (inInt .fault .nop (minWord + 1#32) 1#32 true).int.a.toInt - (1#32 : Word).toInt
    ∧ minWord.toInt = (inMul .fault .nop 65536#32 (BitVec.ofInt 32 (-32768))).mul.a.toInt
        * (inMul .fault .nop 65536#32 (BitVec.ofInt 32 (-32768))).mul.b.toInt := by decide

/-- `ArithmeticWrapsUnderTheWrapPolicy`. -/
theorem witness_ArithmeticWrapsUnderTheWrapPolicy : (let s := inInt .wrap .nop minWord (BitVec.ofInt 32 (-1)) true;
    s.cfg.overflow = .wrap ∧ s.int.a = BitVec.ofInt 32 minInt ∧ s.int.b = BitVec.ofInt 32 (-1)) := by decide

/-- `OverflowFaultsUnderTheFaultPolicy`: one past either end, by each form. -/
theorem witness_OverflowFaultsUnderTheFaultPolicy :
    (inInt .fault .nop maxWord 1#32 true).cfg.overflow = .fault
    ∧ (2147483647 : Int) < (inInt .fault .nop maxWord 1#32 true).int.a.toInt + (inInt .fault .nop maxWord 1#32 true).int.b.toInt
    ∧ (inInt .fault .nop minWord 1#32 true).int.a.toInt + (BitVec.ofInt 32 (-1) : Word).toInt < -2147483648
    ∧ (inInt .fault .nop minWord 1#32 true).int.a.toInt - (inInt .fault .nop minWord 1#32 true).int.b.toInt < -2147483648
    ∧ (2147483647 : Int) < (inInt .fault .nop 0#32 0#32 true).int.a.toInt - minWord.toInt
    ∧ (2147483647 : Int) < (inMul .fault .nop minWord (BitVec.ofInt 32 (-1))).mul.a.toInt
        * (inMul .fault .nop minWord (BitVec.ofInt 32 (-1))).mul.b.toInt
    ∧ (inInt .fault .nop minWord (BitVec.ofInt 32 (-1)) true).int.a = BitVec.ofInt 32 minInt
    ∧ (inInt .fault .nop minWord (BitVec.ofInt 32 (-1)) true).int.b = BitVec.ofInt 32 (-1) := by decide

/-- `DivisionByZeroFaults`: with the DIV at the queue head. -/
theorem witness_DivisionByZeroFaults : (let s := inInt .fault (.div 3 1 2) 7#32 0#32 true;
    s.int.b = 0#32 ∧ s.int.occ = true ∧ s.int.instr = .div 3 1 2 ∧ s.rq = s.int.seq :: []) := by decide

/-- `DivisionRoundsTowardZero`: -7 by 2, and -2^31 by 1. -/
theorem witness_DivisionRoundsTowardZero :
    (let s := inInt .fault (.div 3 1 2) (BitVec.ofInt 32 (-7)) 2#32 true;
      s.int.b ≠ 0#32 ∧ ¬(s.int.a.toInt = minInt ∧ s.int.b.toInt = -1))
    ∧ (let s := inInt .fault (.div 3 1 2) minWord 1#32 true;
      s.int.b ≠ 0#32 ∧ ¬(s.int.a.toInt = minInt ∧ s.int.b.toInt = -1)) := by decide

/-- `LoadReadsTheAddressedCell`: the first cell and the last. -/
theorem witness_LoadReadsTheAddressedCell : (let s := inLs .nop 1#32 14#32 0#32
    0 < s.cfg.dmemSize ∧ 15 < s.cfg.dmemSize ∧ ((0 : Nat) : Int) = s.ls.a.toInt + (BitVec.ofInt 32 (-1) : Word).toInt
      ∧ ((15 : Nat) : Int) = s.ls.a.toInt + s.ls.b.toInt) := by decide

/-- `StoreWritesTheAddressedCellOnly`: the first cell and the last. -/
theorem witness_StoreWritesTheAddressedCellOnly : (let s := inLs .nop 9#32 1#32 14#32
    Memory.wf s.dmem ∧ 0 < s.cfg.dmemSize ∧ 15 < s.cfg.dmemSize
      ∧ ((0 : Nat) : Int) = s.ls.b.toInt + (BitVec.ofInt 32 (-1) : Word).toInt
      ∧ ((15 : Nat) : Int) = s.ls.b.toInt + s.ls.c.toInt) := by decide

/-- `OutOfRangeAddressFaults`: one below the first cell and one past the last, each form on its final cycle. -/
theorem witness_OutOfRangeAddressFaults :
    (let s := inLs (.load 2 1 (BitVec.ofInt 32 (-1))) 0#32 0#32 0#32;
      s.ls.a.toInt + (BitVec.ofInt 32 (-1) : Word).toInt < 0
        ∧ s.ls.occ = true ∧ s.ls.st = .busy ∧ s.ls.count = 3 ∧ s.ls.instr = .load 2 1 (BitVec.ofInt 32 (-1)))
    ∧ (let s := inLs (.store 1 2 0#32) 9#32 16#32 0#32;
      (s.cfg.dmemSize : Int) ≤ s.ls.b.toInt + (0#32 : Word).toInt
        ∧ s.ls.occ = true ∧ s.ls.st = .busy ∧ s.ls.count = 3 ∧ s.ls.instr = .store 1 2 0#32)
    ∧ (let s := inLs (.ldr 4 1 2) 9#32 7#32 0#32;
      (s.cfg.dmemSize : Int) ≤ s.ls.a.toInt + s.ls.b.toInt
        ∧ s.ls.occ = true ∧ s.ls.st = .busy ∧ s.ls.count = 3 ∧ s.ls.instr = .ldr 4 1 2)
    ∧ (let s := inLs (.str 1 2 3) 9#32 16#32 (BitVec.ofInt 32 (-17));
      s.ls.b.toInt + s.ls.c.toInt < 0
        ∧ s.ls.occ = true ∧ s.ls.st = .busy ∧ s.ls.count = 3 ∧ s.ls.instr = .str 1 2 3) := by decide

/-- `BranchRedirectsWhenTaken`. -/
theorem witness_BranchRedirectsWhenTaken : (inInt .fault (.bz 8#32) 0#32 0#32 true).z = true
    ∧ (inInt .fault (.bz 8#32) 0#32 0#32 false).z = false := by decide

/-- `ComputingLeavesTheRestUnchanged`: an instruction for each clause. -/
theorem witness_ComputingLeavesTheRestUnchanged : isBranch (.add 3 1 2) = false ∧ writesZ (.load 2 1 0#32) = false
    ∧ UnitId.mul ≠ unitOf (.add 3 1 2) ∧ storedAddress (.load 2 1 0#32) (inLs .nop 9#32 1#32 14#32).ls = none
    ∧ storedAddress (.str 1 2 3) (inLs .nop 9#32 1#32 14#32).ls = some 15 := by decide

/-- `FetchIsSuppressedDisabledOrHeld`. -/
theorem witness_FetchIsSuppressedDisabledOrHeld : ({ idle .fault [] with redirect := true }).redirect = true
    ∧ (inDecode .halt).redirect = false ∧ (inDecode .halt).fetchEn = false ∧ (inDecode .halt).d.occ = true := by decide

/-- `FetchFillsDecodeFromTheSlot`: the first slot and the last. -/
theorem witness_FetchFillsDecodeFromTheSlot :
    (let s := idle .fault [.nop, .halt];
      s.redirect = false ∧ s.fetchEn = true ∧ s.d.occ = false ∧ s.code[0]? = some .nop ∧ s.pc = s.cfg.codeBase + 4 * ((0 : Nat) : Int))
    ∧ (let s := { idle .fault [.nop, .halt] with pc := 4004 };
      s.redirect = false ∧ s.fetchEn = true ∧ s.d.occ = false ∧ s.code[1]? = some .halt
        ∧ s.pc = s.cfg.codeBase + 4 * ((1 : Nat) : Int)) := by decide

/-- `InvalidFetchPlacesTheMarker`: below the base, misaligned, and just past the last slot. -/
theorem witness_InvalidFetchPlacesTheMarker : ∀ p ∈ ([3996, 4002, 4004] : List Int),
    (let s := { idle .fault [.nop] with pc := p };
      s.redirect = false ∧ s.fetchEn = true ∧ s.d.occ = false
        ∧ ∀ k : Nat, k < s.code.length → s.pc ≠ s.cfg.codeBase + 4 * (k : Int)) := by decide

/-- An invalid-fetch marker for 4004 in the Decode latch. -/
def withMarker (q : List Nat) : State :=
  { idle .fault [.nop] with
    d := { DecodeLatch.empty with occ := true, invalid := true, pc := 4004 }, fetchEn := false, pc := 4004, rq := q }

/-- `MarkerFaultsOnlyWithAnEmptyQueue`. -/
theorem witness_MarkerFaultsOnlyWithAnEmptyQueue : (idle .fault []).d.occ = false ∧ (withMarker []).d.occ = true
    ∧ (withMarker []).d.invalid = true ∧ (withMarker []).rq = [] ∧ (withMarker [0]).rq ≠ [] := by decide

/-- `ReservedRegisterStallsDispatch`: a reserved third source, and a reserved destination. -/
theorem witness_ReservedRegisterStallsDispatch :
    (let s := { inDecode (.str 1 2 3) with sb := Vector.ofFn fun r => r = 3 };
      s.d.occ = true ∧ s.d.invalid = false ∧ s.d.phase = .check ∧ (3 : Reg) ∈ sourcesOf s.d.instr ∧ s.sb[(3 : Reg)] = true)
    ∧ (let s := { inDecode (.movc 15 0#32) with sb := Vector.ofFn fun r => r = 15 };
      s.d.occ = true ∧ s.d.invalid = false ∧ s.d.phase = .check ∧ destOf s.d.instr = some 15 ∧ s.sb[(15 : Reg)] = true) := by decide

/-- `BusyUnitStallsWithoutReserving`: in either phase. -/
theorem witness_BusyUnitStallsWithoutReserving :
    (let s := { inDecode (.mul 3 1 2) with mul := latchOf (.mul 4 1 2) 0 6#32 7#32 0#32 };
      s.d.occ = true ∧ s.d.invalid = false ∧ (s.unit (unitOf s.d.instr)).occ = true ∧ s.d.phase = .check
        ∧ ∀ r ∈ hazardsOf s.d.instr, s.sb[r] = false)
    ∧ (let s := (({ inDecode (.mul 3 1 2) with mul := latchOf (.mul 4 1 2) 0 6#32 7#32 0#32 }) : State).readOperands;
      s.d.occ = true ∧ s.d.invalid = false ∧ (s.unit (unitOf s.d.instr)).occ = true ∧ s.d.phase = .awaitUnit) := by decide

/-- `DispatchReadsReservesAndQueues`, in phase CHECK: with room for the last entry, and with the queue full. -/
theorem witness_DispatchReadsReservesAndQueues : ∀ q ∈ ([[0, 1, 2], [0, 1, 2, 3]] : List (List Nat)),
    (let s := { inDecode (.str 1 2 3) with rq := q };
      s.d.occ = true ∧ s.d.invalid = false ∧ s.d.phase = .check ∧ (∀ r ∈ hazardsOf s.d.instr, s.sb[r] = false)
        ∧ (s.unit (unitOf s.d.instr)).occ = false) := by decide

/-- `DispatchReadsReservesAndQueues`, in phase AWAIT_UNIT: the unit has become free, with room and with the queue full. -/
theorem witness_dispatch_after_waiting : ∀ q ∈ ([[0, 1, 2], [0, 1, 2, 3]] : List (List Nat)),
    (let s := ({ inDecode (.mul 3 1 2) with rq := q } : State).readOperands;
      s.d.occ = true ∧ s.d.invalid = false ∧ s.d.phase = .awaitUnit ∧ (s.unit (unitOf s.d.instr)).occ = false
        ∧ s.rq = q) := by decide

/-- `HandOffFollowsTheQueueHead`, a state per clause. -/
theorem witness_HandOffFollowsTheQueueHead :
    ({ inInt .fault .nop 0#32 0#32 true with rq := [] }).rq = []
    ∧ (let s := { inInt .fault .nop 0#32 0#32 true with rq := [1] };
      s.rq = 1 :: [] ∧ 1 ≠ (s.unit .int).seq)
    ∧ (let s := { inInt .fault .nop 0#32 0#32 true with wb := latchOf .nop 0 0#32 0#32 0#32 };
      s.rq = (s.unit .int).seq :: [] ∧ s.wb.occ = true)
    ∧ (let s := inInt .fault .nop 0#32 0#32 true;
      s.rq = (s.unit .int).seq :: [] ∧ s.wb.occ = false) := by decide

/-- The instruction of slot 0 in Writeback with a result, at the queue head. -/
def inWb (i : Instr) (v : Word) : State :=
  { idle .fault [i] with
    wb := { latchOf i 0 0#32 0#32 0#32 with res := v, st := .done }, rq := [0], pc := 4004, sb := Vector.ofFn fun r => destOf i = some r }

/-- `WritebackRetiresTheHead`, a state per clause. -/
theorem witness_WritebackRetiresTheHead : (idle .fault []).wb.occ = false
    ∧ (let s := { inWb .halt 0#32 with rq := [] };
      s.wb.occ = true ∧ s.rq.head? ≠ some s.wb.seq)
    ∧ (let s := inWb (.movc 15 7#32) 7#32;
      s.wb.occ = true ∧ s.rq = s.wb.seq :: [] ∧ destOf s.wb.instr = some 15 ∧ destOf s.wb.instr ≠ some 0) := by decide

/-- `MultiplierComputesOnItsThirdCycle`, a state per clause, an older instruction at the head in the last two. -/
theorem witness_MultiplierComputesOnItsThirdCycle : ((idle .fault []).status = .running ∧ (idle .fault []).mul.occ = false)
    ∧ (let s := { inMul .fault (.mul 3 1 2) 6#32 7#32 with mul := latchOf (.mul 3 1 2) 0 6#32 7#32 0#32 };
      s.status = .running ∧ s.mul.occ = true ∧ s.mul.st = .busy ∧ s.mul.count ≠ 2)
    ∧ (let s := { inMul .fault (.mul 3 1 2) 6#32 7#32 with rq := [1, 0] };
      s.status = .running ∧ s.mul.occ = true ∧ s.mul.st = .busy ∧ s.mul.count = 2 ∧ s.mul.instr = .mul 3 1 2
        ∧ (42#32 : Word).toInt = s.mul.a.toInt * s.mul.b.toInt ∧ s.rq = 1 :: [0] ∧ 1 ≠ s.mul.seq)
    ∧ (let s := { inMul .fault (.mul 3 1 2) 6#32 7#32 with
          mul := { latchOf (.mul 3 1 2) 0 6#32 7#32 0#32 with st := .done, count := 3 }, rq := [1, 0] };
      s.status = .running ∧ s.mul.occ = true ∧ s.mul.st = .done ∧ s.rq = 1 :: [0] ∧ 1 ≠ s.mul.seq) := by decide

/-- The final cycle of `MultiplierComputesOnItsThirdCycle`: a product that fits, and one that faults. -/
theorem witness_mul_final_cycle :
    (∃ t, exec (.mul 3 1 2) { inMul .fault (.mul 3 1 2) 6#32 7#32 with
        mul := { latchOf (.mul 3 1 2) 0 6#32 7#32 0#32 with count := 3 } } = .next t ∧ t.status = .running)
    ∧ ∃ t, exec (.mul 3 1 2) { inMul .fault (.mul 3 1 2) 6#32 7#32 with
        mul := { latchOf (.mul 3 1 2) 0 minWord (BitVec.ofInt 32 (-1)) 0#32 with count := 3 } } = .next t ∧ t.status ≠ .running :=
  ⟨⟨_, rfl, by decide⟩, ⟨_, rfl, by decide⟩⟩

/-- `LoadStoreAccessesOnItsFourthCycle`, a state per clause, an older instruction at the head in the last three. -/
theorem witness_LoadStoreAccessesOnItsFourthCycle : ((idle .fault []).status = .running ∧ (idle .fault []).ls.occ = false)
    ∧ (let s := { inLs (.store 1 2 0#32) 9#32 15#32 0#32 with ls := latchOf (.store 1 2 0#32) 0 9#32 15#32 0#32 };
      s.status = .running ∧ s.ls.occ = true ∧ s.ls.st = .busy ∧ s.ls.count ≠ 3)
    ∧ (let s := { inLs (.store 1 2 0#32) 9#32 15#32 0#32 with rq := [1, 0] };
      s.ls.occ = true ∧ s.ls.st = .busy ∧ s.ls.count = 3 ∧ s.ls.instr = .store 1 2 0#32
        ∧ ((15 : Nat) : Int) = s.ls.b.toInt + (0#32 : Word).toInt ∧ 15 < s.cfg.dmemSize ∧ s.rq = 1 :: [0] ∧ 1 ≠ s.ls.seq)
    ∧ (let s := { inLs (.load 2 1 0#32) 0#32 0#32 0#32 with rq := [1, 0] };
      s.ls.occ = true ∧ s.ls.st = .busy ∧ s.ls.count = 3 ∧ s.ls.instr = .load 2 1 0#32
        ∧ ((0 : Nat) : Int) = s.ls.a.toInt + (0#32 : Word).toInt ∧ 0 < s.cfg.dmemSize ∧ s.rq = 1 :: [0] ∧ 1 ≠ s.ls.seq)
    ∧ (let s := { inLs (.load 2 1 0#32) 0#32 0#32 0#32 with
          ls := { latchOf (.load 2 1 0#32) 0 0#32 0#32 0#32 with st := .done, count := 4 }, rq := [1, 0] };
      s.ls.occ = true ∧ s.ls.st = .done ∧ s.rq = 1 :: [0] ∧ 1 ≠ s.ls.seq) := by decide

/-- The final cycle of `LoadStoreAccessesOnItsFourthCycle`: an access that completes, and one that faults. -/
theorem witness_ls_final_cycle :
    (∃ t, exec (.load 2 1 0#32) { inLs (.load 2 1 0#32) 0#32 0#32 0#32 with
        ls := { latchOf (.load 2 1 0#32) 0 15#32 0#32 0#32 with count := 4 } } = .next t ∧ t.status = .running)
    ∧ ∃ t, exec (.load 2 1 0#32) { inLs (.load 2 1 0#32) 0#32 0#32 0#32 with
        ls := { latchOf (.load 2 1 0#32) 0 16#32 0#32 0#32 with count := 4 } } = .next t ∧ t.status ≠ .running :=
  ⟨⟨_, rfl, by decide⟩, ⟨_, rfl, by decide⟩⟩

/-- `IntegerUnitComputesOnlyAtTheHead`: empty, without a queue, not at the head, and at it. -/
theorem witness_IntegerUnitComputesOnlyAtTheHead : (idle .fault []).int.occ = false
    ∧ (let s := { inInt .fault (.add 3 1 2) 5#32 0#32 true with rq := [] };
      s.int.occ = true ∧ s.rq = [])
    ∧ (let s := { inInt .fault (.add 3 1 2) 5#32 0#32 true with rq := [1, 0] };
      s.int.occ = true ∧ s.rq = 1 :: [0] ∧ 1 ≠ s.int.seq)
    ∧ (let s := inInt .fault (.add 3 1 2) 5#32 0#32 true;
      s.int.occ = true ∧ s.rq = s.int.seq :: [] ∧ s.wb.occ = false) := by decide

/-- The clause of `IntegerUnitComputesOnlyAtTheHead` at the head: an instruction that completes, and one that faults. -/
theorem witness_int_at_the_head :
    (∃ t, exec (.add 3 1 2) (inInt .fault (.add 3 1 2) 5#32 0#32 true) = .next t ∧ t.status = .running)
    ∧ ∃ t, exec (.add 3 1 2) (inInt .fault (.add 3 1 2) maxWord 1#32 true) = .next t ∧ t.status ≠ .running :=
  ⟨⟨_, rfl, by decide⟩, ⟨_, rfl, by decide⟩⟩

/-- `EveryTickAnswersAndCounts`: a RUNNING core and one that is not. -/
theorem witness_EveryTickAnswersAndCounts : (idle .fault []).status = .running
    ∧ ({ idle .fault [] with status := .stopped }).status ≠ .running := by decide

/-- `RegistersChangeOnlyByRetirement`. -/
theorem witness_RegistersChangeOnlyByRetirement :
    ∃ t, step (inWb (.movc 15 7#32) 7#32) = .next t ∧ t.x[(15 : Reg)] ≠ (inWb (.movc 15 7#32) 7#32).x[(15 : Reg)] :=
  ⟨_, rfl, by decide⟩

/-- `PcChangesOnlyByFetchOrBranch`, `ZeroFlagChangesOnlyByItsWriters`: a taken branch, and an ADD that clears Z. -/
theorem witness_routed_steps :
    (∃ t, (inInt .fault (.bz 8#32) 0#32 0#32 true).routed ∧ step (inInt .fault (.bz 8#32) 0#32 0#32 true) = .next t ∧ t.pc = 4008)
    ∧ ∃ t, (inInt .fault (.add 3 1 2) 5#32 0#32 true).routed ∧ step (inInt .fault (.add 3 1 2) 5#32 0#32 true) = .next t
      ∧ t.z ≠ (inInt .fault (.add 3 1 2) 5#32 0#32 true).z :=
  ⟨⟨_, by unfold State.routed; decide, rfl, by decide⟩, ⟨_, by unfold State.routed; decide, rfl, by decide⟩⟩

/-- `ScoreboardChangesOnlyByDispatchAndRetirement`: a bit set, and a bit cleared. -/
theorem witness_ScoreboardChangesOnlyByDispatchAndRetirement :
    (∃ t, step (inDecode (.movc 15 7#32)) = .next t ∧ (inDecode (.movc 15 7#32)).sb[(15 : Reg)] = false ∧ t.sb[(15 : Reg)] = true)
    ∧ ∃ t, step (inWb (.movc 15 7#32) 7#32) = .next t ∧ (inWb (.movc 15 7#32) 7#32).sb[(15 : Reg)] = true
      ∧ t.sb[(15 : Reg)] = false :=
  ⟨⟨_, rfl, by decide, by decide⟩, ⟨_, rfl, by decide, by decide⟩⟩

/-- `QueuePopsAtRetirementAndGrowsAtDispatch`. -/
theorem witness_QueuePopsAtRetirementAndGrowsAtDispatch : (inWb (.movc 15 7#32) 7#32).status = .running
    ∧ ∃ t, step (inWb (.movc 15 7#32) 7#32) = .next t ∧ t.rq = [] := ⟨by decide, _, rfl, by decide⟩

/-- `MemoryChangesOnlyByStores`, `EveryStepKeepsTheMemoryCanonical`: a STORE to the last cell. -/
theorem witness_memory_steps : (inLs (.store 1 2 0#32) 9#32 15#32 0#32).routed ∧ (inLs (.store 1 2 0#32) 9#32 15#32 0#32).memoryOk
    ∧ ∃ t, step (inLs (.store 1 2 0#32) 9#32 15#32 0#32) = .next t ∧ t.dmem ≠ (inLs (.store 1 2 0#32) 9#32 15#32 0#32).dmem :=
  ⟨by unfold State.routed; decide, by unfold State.memoryOk; decide, _, rfl, by decide⟩

/-- `FaultRecordNamesTheFaultingTick`, `EveryStepKeepsFaultRecordAndRouting`: a tick that ends FAULTED, and one that does not. -/
theorem witness_fault_steps :
    (inInt .fault (.div 3 1 2) 7#32 0#32 true).status = .running ∧ (inInt .fault (.div 3 1 2) 7#32 0#32 true).faultMatches
    ∧ (inInt .fault (.div 3 1 2) 7#32 0#32 true).routed
    ∧ (∃ t, step (inInt .fault (.div 3 1 2) 7#32 0#32 true) = .next t ∧ t.status = .faulted)
    ∧ ∃ t, step (inInt .fault (.div 3 1 2) 7#32 2#32 true) = .next t ∧ t.status ≠ .faulted :=
  ⟨by decide, by unfold State.faultMatches; decide, by unfold State.routed; decide, ⟨_, rfl, by decide⟩, ⟨_, rfl, by decide⟩⟩

/-- `LoneHaltEndsTheRunInThreeTicks`. -/
theorem witness_LoneHaltEndsTheRunInThreeTicks : (inDecode .halt).alone .halt := by
  unfold State.alone
  decide

/-! ### States that meet the pipeline invariant -/

/-- A HALT in Writeback, the last instruction of the run. -/
def haltRetiring : State := { inWb .halt 0#32 with fetchEn := false }

/-- An occupied core: the STORE of slot 0 done and handed to Writeback, the MUL of slot 1 on its second cycle, the LOAD of slot 2
just dispatched, and the ADD of slot 3 waiting in the Integer unit. -/
def fullCore : State :=
  let code : List Instr := [.store 1 2 0#32, .mul 3 1 2, .load 4 1 0#32, .add 5 1 2, .nop]
  { idle .fault code with
    wb := { latchOf (.store 1 2 0#32) 0 9#32 15#32 0#32 with st := .done, count := 4 }
    mul := { latchOf (.mul 3 1 2) 1 6#32 7#32 0#32 with count := 1 }
    ls := latchOf (.load 4 1 0#32) 2 0#32 0#32 0#32
    int := latchOf (.add 5 1 2) 3 0#32 0#32 0#32
    rq := [0, 1, 2, 3], pc := 4016, clock := 9#64, retired := 4#64
    sb := Vector.ofFn fun r => r = 3 ∨ r = 4 ∨ r = 5
    dmem := [(15, 9#32)] }

theorem haltRetiring_inv : haltRetiring.Inv :=
  State.inv_of_checks haltRetiring [.wb]

theorem fullCore_inv : fullCore.Inv :=
  State.inv_of_checks fullCore [.wb, .mul, .ls, .int]

/-- A core with an empty queue and a Decode latch or a flag as given. -/
def emptyQueue (code : List Instr) (d : DecodeLatch) (en : Bool) (p : Int) : State :=
  { idle .fault code with d := d, fetchEn := en, pc := p }

/-- An instruction of slot 0 in the Decode latch, and a marker there. -/
def decoded (i : Instr) : DecodeLatch := { latchOf i 0 0#32 0#32 0#32 with phase := .check, invalid := false }
def decodedMarker : DecodeLatch := { DecodeLatch.empty with occ := true, invalid := true, pc := 4004 }

/-- An empty Decode latch that still holds the fields of a HALT. -/
def staleDecode : DecodeLatch := { DecodeLatch.empty with instr := .halt, seq := 7, invalid := true, a := 9#32 }

/-- After the first tick of a program that starts with `i` and goes on with a HALT: Fetch is enabled. -/
def started (i : Instr) : State := emptyQueue [i, .halt] (decoded i) true 4004

theorem started_inv : (started (.add 3 1 2)).Inv ∧ (started (.mul 3 1 2)).Inv ∧ (started (.load 2 1 15#32)).Inv
    ∧ (started (.str 1 2 3)).Inv :=
  ⟨State.inv_of_checks _ [],
    State.inv_of_checks _ [],
    State.inv_of_checks _ [],
    State.inv_of_checks _ []⟩

/-- `LoneAddRetiresInThreeTicks`, `LoneMulRetiresInFiveTicks`, `LoneLoadRetiresInSixTicks`, `LoneStrWritesBeforeItRetires`: the core
after the first tick of a program that starts with the instruction, Fetch enabled. -/
theorem witness_lone_instructions : (started (.add 3 1 2)).startsWith (.add 3 1 2) ∧ (started (.mul 3 1 2)).startsWith (.mul 3 1 2)
    ∧ (started (.load 2 1 15#32)).startsWith (.load 2 1 15#32) ∧ (started (.str 1 2 3)).startsWith (.str 1 2 3)
    ∧ (started (.add 3 1 2)).fetchEn = true :=
  ⟨⟨started_inv.1, rfl, rfl, rfl, rfl, rfl⟩, ⟨started_inv.2.1, rfl, rfl, rfl, rfl, rfl⟩, ⟨started_inv.2.2.1, rfl, rfl, rfl, rfl, rfl⟩,
    ⟨started_inv.2.2.2, rfl, rfl, rfl, rfl, rfl⟩, rfl⟩

/-- The same obligations: their results in range, and an address at the last cell and at the first. -/
theorem witness_lone_operands :
    (0#32 : Word).toInt = (started (.add 3 1 2)).x[(1 : Reg)].toInt + (started (.add 3 1 2)).x[(2 : Reg)].toInt
    ∧ (0#32 : Word).toInt = (started (.mul 3 1 2)).x[(1 : Reg)].toInt * (started (.mul 3 1 2)).x[(2 : Reg)].toInt
    ∧ ((15 : Nat) : Int) = (started (.load 2 1 15#32)).x[(1 : Reg)].toInt + (15#32 : Word).toInt
    ∧ 15 < (started (.load 2 1 15#32)).cfg.dmemSize
    ∧ ((0 : Nat) : Int) = (started (.str 1 2 3)).x[(2 : Reg)].toInt + (started (.str 1 2 3)).x[(3 : Reg)].toInt
    ∧ 0 < (started (.str 1 2 3)).cfg.dmemSize := by decide

/-- A MOVC to R15 in Writeback, and behind it in the Decode latch an instruction that waits for R15. -/
def waitingForR15 (i : Instr) : State :=
  { inWb (.movc 15 7#32) 7#32 with
    code := [.movc 15 7#32, i, .halt]
    d := { latchOf i 1 0#32 0#32 0#32 with phase := .check, invalid := false }, pc := 4008 }

theorem waitingForR15_inv : (waitingForR15 (.str 1 2 15)).Inv ∧ (waitingForR15 (.movc 15 0#32)).Inv :=
  ⟨State.inv_of_checks _ [.wb],
    State.inv_of_checks _ [.wb]⟩

/-- `RetiredRegisterIsReadableInTheSameTick`: an STR that waits for its index, and a second writer of the register. -/
theorem witness_RetiredRegisterIsReadableInTheSameTick : ∀ i ∈ ([.str 1 2 15, .movc 15 0#32] : List Instr),
    (let s := waitingForR15 i;
      s.wb.occ = true ∧ destOf s.wb.instr = some 15 ∧ s.d.occ = true ∧ s.d.invalid = false ∧ s.d.phase = .check
        ∧ (15 : Reg) ∈ hazardsOf s.d.instr ∧ (∀ p ∈ hazardsOf s.d.instr, p ≠ 15 → s.sb[p] = false)
        ∧ (s.int.occ = true → isBranch s.int.instr = false)) := by decide

/-- The step of `RetiredRegisterIsReadableInTheSameTick` leaves the core RUNNING. -/
theorem witness_retired_register_step : (∃ t, step (waitingForR15 (.str 1 2 15)) = .next t ∧ t.status = .running)
    ∧ ∃ t, step (waitingForR15 (.movc 15 0#32)) = .next t ∧ t.status = .running := ⟨⟨_, rfl, by decide⟩, ⟨_, rfl, by decide⟩⟩

/-- Program P6 after tick 9: the LOAD in Writeback, the BZ behind it, the MUL before its final cycle, a MOVC waiting in Decode. -/
def programP6 : State :=
  { idle .fault [.movc 2 2#32, .movc 0 0#32, .load 5 0 0#32, .bz 12#32, .mul 6 2 2, .movc 7 1#32, .halt] with
    wb := { latchOf (.load 5 0 0#32) 2 0#32 0#32 0#32 with st := .done, count := 4 }
    int := latchOf (.bz 12#32) 3 0#32 0#32 0#32
    mul := { latchOf (.mul 6 2 2) 4 2#32 2#32 0#32 with count := 2 }
    d := { latchOf (.movc 7 1#32) 5 0#32 0#32 0#32 with phase := .awaitUnit, invalid := false }
    rq := [2, 3, 4], pc := 4024, clock := 9#64, retired := 2#64, z := true
    sb := Vector.ofFn fun r => r = 5 ∨ r = 6
    x := (Vector.replicate 16 0#32).set 2 2#32 }

/-- A BZ at the queue head and behind it a MUL of 0 by 2 before its final cycle, and a STORE before its access to the last cell. -/
def shadowOfZero : State :=
  { idle .fault [.bz 12#32, .mul 6 1 2, .store 1 2 15#32, .halt] with
    int := latchOf (.bz 12#32) 0 0#32 0#32 0#32
    mul := { latchOf (.mul 6 1 2) 1 0#32 2#32 0#32 with count := 2 }
    ls := { latchOf (.store 1 2 15#32) 2 0#32 0#32 0#32 with count := 3 }
    rq := [0, 1, 2], pc := 4012, sb := Vector.ofFn fun r => r = 6 }

theorem programP6_inv : programP6.Inv :=
  State.inv_of_checks _ [.wb, .int, .mul]

theorem shadowOfZero_inv : shadowOfZero.Inv :=
  State.inv_of_checks _ [.int, .mul, .ls]

/-- `ShadowMulDecidesTheOlderBranch`: the branch behind a retiring LOAD with a product that is not 0 (program P6, tick 10). -/
theorem witness_ShadowMulDecidesTheOlderBranch : programP6.int.occ = true ∧ programP6.int.instr = .bz 12#32 ∧ programP6.wb.occ = true
    ∧ programP6.rq = programP6.wb.seq :: programP6.int.seq :: [4] ∧ programP6.mul.occ = true ∧ programP6.mul.st = .busy
    ∧ programP6.mul.count = 2 ∧ programP6.mul.instr = .mul 6 2 2
    ∧ (4#32 : Word).toInt = programP6.mul.a.toInt * programP6.mul.b.toInt ∧ programP6.ls.occ = false := by decide

/-- `ShadowMulDecidesTheOlderBranch`: the branch at the head, a product that is 0, and an access at the last cell in the same tick. -/
theorem witness_shadow_of_zero : shadowOfZero.int.occ = true ∧ shadowOfZero.int.instr = .bz 12#32 ∧ shadowOfZero.wb.occ = false
    ∧ shadowOfZero.rq = shadowOfZero.int.seq :: [1, 2] ∧ shadowOfZero.mul.occ = true ∧ shadowOfZero.mul.st = .busy
    ∧ shadowOfZero.mul.count = 2 ∧ shadowOfZero.mul.instr = .mul 6 1 2
    ∧ (0#32 : Word).toInt = shadowOfZero.mul.a.toInt * shadowOfZero.mul.b.toInt
    ∧ accessAddress shadowOfZero.ls.instr shadowOfZero.ls = some 15 ∧ 15 < (shadowOfZero.cfg.dmemSize : Int) := by decide

/-- 95_test_vectors program P6, tick 10: the BZ is not taken, Z is 0, and the MOVC dispatches. -/
theorem test_program_P6_tick_10 : after (step programP6) (fun t => (t.z, t.pc, t.wb.seq, t.int.seq, t.rq))
    = some (false, 4028, 3, 5, [3, 4, 5]) := by decide

/-- `EveryTickKeepsThePipelineInvariant`, `InternalFaultsAreUnreachable`, `HeadRetiresWithinFiveTicks`: a core with four
instructions in flight. -/
theorem witness_fullCore : fullCore.Inv ∧ fullCore.rq ≠ [] ∧ ∃ t, step fullCore = .next t ∧ t.status = .running :=
  ⟨fullCore_inv, by decide, _, rfl, by decide⟩

/-- `HaltRetiresAlone`. -/
theorem witness_HaltRetiresAlone : haltRetiring.Inv ∧ ∃ t, step haltRetiring = .next t ∧ t.status = .halted :=
  ⟨haltRetiring_inv, _, rfl, by decide⟩

/-- Before the first tick of a program, and the same with other contents in the empty Decode latch. -/
theorem beforeFirstTick_inv : (emptyQueue [.halt] DecodeLatch.empty true 4000).Inv ∧ (emptyQueue [.halt] staleDecode true 4000).Inv :=
  ⟨State.inv_of_checks _ [],
    State.inv_of_checks _ []⟩

theorem markerHeld_inv : (emptyQueue [.nop] decodedMarker false 4004).Inv :=
  State.inv_of_checks _ []

/-- `EmptyQueueMakesProgress`, a state per clause. -/
theorem witness_EmptyQueueMakesProgress :
    ((started (.add 3 1 2)).Inv ∧ (started (.add 3 1 2)).rq = [] ∧ (started (.add 3 1 2)).d.occ = true
      ∧ (started (.add 3 1 2)).d.invalid = false)
    ∧ ((emptyQueue [.nop] decodedMarker false 4004).Inv ∧ (emptyQueue [.nop] decodedMarker false 4004).rq = []
      ∧ decodedMarker.occ = true ∧ decodedMarker.invalid = true)
    ∧ ((emptyQueue [.halt] DecodeLatch.empty true 4000).Inv ∧ (emptyQueue [.halt] DecodeLatch.empty true 4000).rq = []
      ∧ DecodeLatch.empty.occ = false) :=
  ⟨⟨started_inv.1, rfl, rfl, rfl⟩, ⟨markerHeld_inv, rfl, rfl, rfl⟩, ⟨beforeFirstTick_inv.1, rfl, rfl⟩⟩

/-- `EmptyLatchContentsAreNeverRead`: two different states that meet the invariant and read the same. -/
theorem witness_EmptyLatchContentsAreNeverRead :
    (emptyQueue [.halt] DecodeLatch.empty true 4000).Inv ∧ (emptyQueue [.halt] staleDecode true 4000).Inv
    ∧ (emptyQueue [.halt] DecodeLatch.empty true 4000).readable = (emptyQueue [.halt] staleDecode true 4000).readable
    ∧ emptyQueue [.halt] DecodeLatch.empty true 4000 ≠ emptyQueue [.halt] staleDecode true 4000
    ∧ (∃ t, step (emptyQueue [.halt] DecodeLatch.empty true 4000) = .next t)
    ∧ ∃ v, step (emptyQueue [.halt] staleDecode true 4000) = .next v :=
  ⟨beforeFirstTick_inv.1, beforeFirstTick_inv.2, by decide, by decide, ⟨_, rfl⟩, ⟨_, rfl⟩⟩

/-- `StopRequestChangesOnlyTheStatus`. -/
theorem witness_StopRequestChangesOnlyTheStatus : (idle .fault []).status = .running
    ∧ ({ idle .fault [] with status := .halted }).status ≠ .running := by decide

end Sys2Proof.Tests
end

section
/-! PROOF SUPPORT. What each operation of a tick can do, said once: the effect of an instruction's computation (`ExecEffect`), a
tick of a unit that counts its cycles (`UnitTick`), a tick of the Integer unit (`IntTick`), and the stages of a tick in their
order (`step_stages`). -/

namespace Sys2Proof.Machine

/-! ### The effect of a computation -/

@[simp] theorem State.unit_int (s : State) : s.unit .int = s.int := rfl
@[simp] theorem State.unit_mul (s : State) : s.unit .mul = s.mul := rfl
@[simp] theorem State.unit_ls (s : State) : s.unit .ls = s.ls := rfl
@[simp] theorem State.raise_unit (s : State) (k : FaultKind) (q : Option Nat) (a : Option Int) (u : UnitId) :
    (s.raise k q a).unit u = s.unit u := by cases u <;> rfl
@[simp] theorem State.redirectTo_unit (s : State) (p : Int) (u : UnitId) : (s.redirectTo p).unit u = s.unit u := by
  cases u <;> rfl

/-- Everything `exec i s` can answer: it sets the result and address fields of its own unit's latch, with Z for an opcode of R26 and
one cell for a store; or it is a taken branch; or it raises a fault that names it (10_state R22, R26; 40_pipeline R170, R171). -/
inductive ExecEffect (i : Instr) (s : State) : State → Prop
  | result (r : Word) (ea : Int) (b : Bool) (m : List (Nat × Word)) (flag : b = s.z ∨ writesZ i = true)
      (memory : (storedAddress i s.ls = none ∧ m = s.dmem) ∨
        ∃ a v, storedAddress i s.ls = some a ∧ validAddress s.cfg a = true ∧ m = Memory.write s.dmem a.toNat v) :
      ExecEffect i s (({ s with z := b, dmem := m } : State).setUnit (unitOf i) { s.unit (unitOf i) with res := r, ea := ea })
  | redirect (imm : Word) (branch : i = .bz imm ∨ i = .bnz imm) :
      ExecEffect i s (s.redirectTo (branchTarget s.int.pc imm))
  | fault (ea : Int) (k : FaultKind) (a : Option Int) :
      ExecEffect i s ((s.setUnit (unitOf i) { s.unit (unitOf i) with ea := ea }).raise k (some (s.unit (unitOf i)).seq) a)

section
variable {i : Instr} {s t : State}

/-- An Integer-unit instruction that sets its result and Z. -/
theorem ExecEffect.ofInt (hu : unitOf i = .int) (hm : storedAddress i s.ls = none) (r : Word) {b : Bool}
    (hb : b = s.z ∨ writesZ i = true) : ExecEffect i s { s with int := { s.int with res := r }, z := b } := by
  have h := ExecEffect.result (i := i) (s := s) r s.int.ea b s.dmem hb (.inl ⟨hm, rfl⟩)
  rw [hu] at h
  exact h

/-- An Integer-unit instruction that raises a fault. -/
theorem ExecEffect.ofIntFault (hu : unitOf i = .int) (k : FaultKind) : ExecEffect i s (s.raise k (some s.int.seq) none) := by
  have h := ExecEffect.fault (i := i) (s := s) s.int.ea k none
  rw [hu] at h
  exact h

theorem intArith_effect (hu : unitOf i = .int) (hz : writesZ i = true) (hm : storedAddress i s.ls = none) {v : Int}
    (h : intArith v s = .next t) : ExecEffect i s t := by
  rcases intArith_cases v s with e | e <;> rw [e] at h <;> cases h
  · exact .ofInt hu hm _ (.inr hz)
  · exact .ofIntFault hu _

theorem mulArith_effect (hu : unitOf i = .mul) (hz : writesZ i = true) (hm : storedAddress i s.ls = none) {v : Int}
    (h : mulArith v s = .next t) : ExecEffect i s t := by
  rcases mulArith_cases v s with e | e <;> rw [e] at h <;> cases h
  · have e := ExecEffect.result (i := i) (s := s) (BitVec.ofInt 32 v) s.mul.ea (decide (BitVec.ofInt 32 v = 0#32)) s.dmem (.inr hz)
      (.inl ⟨hm, rfl⟩)
    rw [hu] at e
    exact e
  · have e := ExecEffect.fault (i := i) (s := s) s.mul.ea .overflowFault none
    rw [hu] at e
    exact e

/-- An access outside the data memory. -/
theorem ExecEffect.ofAddressFault (hu : unitOf i = .ls) (ea : Int) :
    ExecEffect i s ({ s with ls := { s.ls with ea := ea } }.raise .addressFault (some s.ls.seq) (some ea)) := by
  have h := ExecEffect.fault (i := i) (s := s) ea .addressFault (some ea)
  rw [hu] at h
  exact h

theorem loadCell_effect (hu : unitOf i = .ls) (hm : storedAddress i s.ls = none) {ea : Int}
    (h : loadCell ea s = .next t) : ExecEffect i s t := by
  cases hv : validAddress s.cfg ea with
  | true =>
    rw [loadCell_valid hv] at h
    cases h
    have e := ExecEffect.result (i := i) (s := s) (Memory.read s.dmem ea.toNat) ea s.z s.dmem (.inl rfl) (.inl ⟨hm, rfl⟩)
    rw [hu] at e
    exact e
  | false =>
    rw [loadCell_invalid hv] at h
    cases h
    exact .ofAddressFault hu ea

theorem storeCell_effect (hu : unitOf i = .ls) {ea : Int} (hm : storedAddress i s.ls = some ea) {v : Word}
    (h : storeCell ea v s = .next t) : ExecEffect i s t := by
  cases hv : validAddress s.cfg ea with
  | true =>
    rw [storeCell_valid v hv] at h
    cases h
    have e := ExecEffect.result (i := i) (s := s) s.ls.res ea s.z (Memory.write s.dmem ea.toNat v) (.inl rfl)
      (.inr ⟨ea, v, hm, hv, rfl⟩)
    rw [hu] at e
    exact e
  | false =>
    rw [storeCell_invalid v hv] at h
    cases h
    exact .ofAddressFault hu ea

/-- Whatever an instruction computes is an `ExecEffect`. -/
theorem exec_effect (h : exec i s = .next t) : ExecEffect i s t := by
  cases i with
  | add rd rs1 rs2 => exact intArith_effect rfl rfl rfl h
  | addl rd rs1 imm => exact intArith_effect rfl rfl rfl h
  | sub rd rs1 rs2 => exact intArith_effect rfl rfl rfl h
  | subl rd rs1 imm => exact intArith_effect rfl rfl rfl h
  | mul rd rs1 rs2 => exact mulArith_effect rfl rfl rfl h
  | div rd rs1 rs2 =>
    simp only [exec, execDiv] at h
    split at h
    · cases h; exact .ofIntFault rfl _
    · exact intArith_effect rfl rfl rfl h
  | and rd rs1 rs2 => cases h; exact .ofInt rfl rfl _ (.inr rfl)
  | or rd rs1 rs2 => cases h; exact .ofInt rfl rfl _ (.inr rfl)
  | xor rd rs1 rs2 => cases h; exact .ofInt rfl rfl _ (.inr rfl)
  | cmp rs1 rs2 => cases h; exact .ofInt rfl rfl s.int.res (.inr rfl)
  | movc rd imm => cases h; exact .ofInt rfl rfl _ (.inr rfl)
  | load rd rs1 imm => exact loadCell_effect rfl rfl h
  | store rs1 rs2 imm => exact storeCell_effect rfl rfl h
  | ldr rd rs1 rs2 => exact loadCell_effect rfl rfl h
  | str rs1 rs2 rs3 => exact storeCell_effect rfl rfl h
  | bz imm =>
    simp only [exec, execBz] at h
    split at h <;> cases h
    · exact .redirect imm (.inl rfl)
    · exact .ofInt rfl rfl s.int.res (.inl rfl)
  | bnz imm =>
    simp only [exec, execBnz] at h
    split at h <;> cases h
    · exact .redirect imm (.inr rfl)
    · exact .ofInt rfl rfl s.int.res (.inl rfl)
  | nop => cases h; exact .ofInt rfl rfl s.int.res (.inl rfl)
  | halt => cases h; exact .ofInt rfl rfl s.int.res (.inl rfl)

end

/-! ### A hand-off -/

/-- The state after a unit's instruction moved to Writeback (40_pipeline R145). -/
def State.handedOff (s : State) (u : UnitId) : State :=
  ({ s with wb := s.unit u } : State).setUnit u { s.unit u with occ := false, st := .free }

/-- What a hand-off can do: fail an internal check, wait, or move the instruction at the queue head to an empty Writeback latch. -/
inductive HandOff (u : UnitId) (s : State) : State → Prop
  | fault : HandOff u s (s.raise .internalFault (some (s.unit u).seq) none)
  | wait (behind : s.rq.head? ≠ some (s.unit u).seq) : HandOff u s s
  | move (head : s.rq.head? = some (s.unit u).seq) (room : s.wb.occ = false) : HandOff u s (s.handedOff u)

theorem handOff_eq (u : UnitId) (s : State) : handOff u s =
    if s.rq = [] then .next (s.raise .internalFault (some (s.unit u).seq) none)
    else if s.rq.head? ≠ some (s.unit u).seq then .next s
    else if s.wb.occ = true then .next (s.raise .internalFault (some (s.unit u).seq) none)
    else .next (s.handedOff u) := by
  cases hq : s.rq <;> simp [handOff, State.handedOff, hq]

theorem handOff_effect {u : UnitId} {s t : State} (h : handOff u s = .next t) : HandOff u s t := by
  rw [handOff_eq] at h
  split_ifs at h with _ head room <;> cases h
  · exact .fault
  · exact .wait head
  · exact .fault
  · exact .move (not_not.mp head) (Bool.eq_false_iff.mpr room)

/-! ### The tick of a unit -/

/-- The latch's instruction has spent one more cycle in its unit. -/
def State.counted (s : State) (u : UnitId) : State := s.setUnit u { s.unit u with count := (s.unit u).count + 1 }

/-- The unit has computed. -/
def State.markDone (s : State) (u : UnitId) : State := s.setUnit u { s.unit u with st := .done }

/-- The tick of a unit with latency `lat`: nothing to do, one more cycle, a final cycle that ends the tick or goes on to the
hand-off, or the hand-off of an instruction that is DONE (40_pipeline R155 to R157, R160 to R162). -/
inductive UnitTick (u : UnitId) (lat : Nat) (s : State) : State → Prop
  | idle (h : (s.unit u).occ = false ∨ (s.unit u).st = .free) : UnitTick u lat s s
  | count (occ : (s.unit u).occ = true) (st : (s.unit u).st = .busy) (more : (s.unit u).count + 1 ≠ lat) :
      UnitTick u lat s (s.counted u)
  | fault {t : State} (occ : (s.unit u).occ = true) (st : (s.unit u).st = .busy) (last : (s.unit u).count + 1 = lat)
      (run : exec (s.unit u).instr (s.counted u) = .next t) (ended : t.status ≠ .running) : UnitTick u lat s t
  | final {v t : State} (occ : (s.unit u).occ = true) (st : (s.unit u).st = .busy) (last : (s.unit u).count + 1 = lat)
      (run : exec (s.unit u).instr (s.counted u) = .next v) (going : v.status = .running) (off : HandOff u (v.markDone u) t) :
      UnitTick u lat s t
  | done {t : State} (occ : (s.unit u).occ = true) (st : (s.unit u).st = .done) (off : HandOff u s t) : UnitTick u lat s t

/-- `LoadStore()` and `Multiply()` in one, for a unit of latency `lat` (40_pipeline R155 to R157, R160 to R162). -/
def runUnit (u : UnitId) (lat : Nat) (s : State) : Result :=
  if (s.unit u).occ = false then .next s
  else
    Result.andThen
      (if (s.unit u).st = .busy then
        if (s.unit u).count + 1 = lat then
          Result.andThen (exec (s.unit u).instr (s.counted u)) fun t => .next (t.markDone u)
        else .next (s.counted u)
      else .next s)
      fun t => if (t.unit u).st = .done then handOff u t else .next t

theorem loadStore_eq_runUnit (s : State) : loadStore s = runUnit .ls Config.lsLat s := rfl

theorem multiply_eq_runUnit (s : State) : multiply s = runUnit .mul Config.mulLat s := rfl

section
variable {u : UnitId} {lat : Nat} {s t : State}

theorem runUnit_empty (h : (s.unit u).occ = false) : runUnit u lat s = .next s := by simp [runUnit, h]

theorem runUnit_free (h : (s.unit u).st = .free) (hr : s.status = .running) : runUnit u lat s = .next s := by
  simp [runUnit, h, hr]

theorem runUnit_count (occ : (s.unit u).occ = true) (st : (s.unit u).st = .busy) (more : (s.unit u).count + 1 ≠ lat)
    (hr : s.status = .running) : runUnit u lat s = .next (s.counted u) := by
  simp [runUnit, occ, st, more, State.counted, hr]

/-- The final cycle: compute, mark DONE, hand off. -/
theorem runUnit_final (occ : (s.unit u).occ = true) (st : (s.unit u).st = .busy) (last : (s.unit u).count + 1 = lat) :
    runUnit u lat s = Result.andThen (exec (s.unit u).instr (s.counted u)) fun v => handOff u (v.markDone u) := by
  obtain ⟨v, hv⟩ := exec_next (s.unit u).instr (s.counted u)
  by_cases hr : v.status = .running <;>
    simp [runUnit, occ, st, last, hv, hr, State.markDone, Result.andThen]

theorem runUnit_done (occ : (s.unit u).occ = true) (st : (s.unit u).st = .done) (hr : s.status = .running) :
    runUnit u lat s = handOff u s := by
  simp [runUnit, occ, st, hr]

theorem runUnit_tick (hr : s.status = .running) (h : runUnit u lat s = .next t) : UnitTick u lat s t := by
  cases ho : (s.unit u).occ with
  | false => rw [runUnit_empty ho] at h; cases h; exact .idle (.inl ho)
  | true =>
    cases hs : (s.unit u).st with
    | free => rw [runUnit_free hs hr] at h; cases h; exact .idle (.inr hs)
    | busy =>
      by_cases hc : (s.unit u).count + 1 = lat
      · rw [runUnit_final ho hs hc] at h
        obtain ⟨v, hv, ⟨hg, h⟩ | ⟨hg, rfl⟩⟩ := Result.andThen_eq_next.mp h
        · exact .final ho hs hc hv hg (handOff_effect h)
        · exact .fault ho hs hc hv hg
      · rw [runUnit_count ho hs hc hr] at h; cases h; exact .count ho hs hc
    | done => rw [runUnit_done ho hs hr] at h; exact .done ho hs (handOff_effect h)

end

theorem loadStore_tick {s t : State} (hr : s.status = .running) (h : loadStore s = .next t) : UnitTick .ls Config.lsLat s t :=
  runUnit_tick hr (loadStore_eq_runUnit s ▸ h)

theorem multiply_tick {s t : State} (hr : s.status = .running) (h : multiply s = .next t) : UnitTick .mul Config.mulLat s t :=
  runUnit_tick hr (multiply_eq_runUnit s ▸ h)

/-- The tick of the Integer unit: nothing to do, a failed internal check, or a computation at the queue head that ends the tick or
goes on to the hand-off (40_pipeline R150, R151). -/
inductive IntTick (s : State) : State → Prop
  | idle (h : s.int.occ = false ∨ s.rq.head? ≠ some s.int.seq) : IntTick s s
  | noQueue : IntTick s (s.raise .internalFault (some s.int.seq) none)
  | fault {t : State} (occ : s.int.occ = true) (head : s.rq.head? = some s.int.seq)
      (run : exec s.int.instr s = .next t) (ended : t.status ≠ .running) : IntTick s t
  | compute {v t : State} (occ : s.int.occ = true) (head : s.rq.head? = some s.int.seq)
      (run : exec s.int.instr s = .next v) (going : v.status = .running) (off : HandOff .int (v.markDone .int) t) : IntTick s t

theorem integer_tick {s t : State} (h : integer s = .next t) : IntTick s t := by
  rcases integer_cases s with ⟨ho, e⟩ | ⟨-, -, e⟩ | ⟨ho, k, q, hq, ⟨hk, e⟩ | ⟨hk, e⟩⟩ <;> rw [e] at h
  · cases h; exact .idle (.inl ho)
  · cases h; exact .noQueue
  · cases h; exact .idle (.inr (by simpa [hq] using hk))
  · have hh : s.rq.head? = some s.int.seq := by simp [hq, hk]
    obtain ⟨v, hv, ⟨hr, h⟩ | ⟨hr, rfl⟩⟩ := Result.andThen_eq_next.mp h
    · exact .compute ho hh hv hr (handOff_effect h)
    · exact .fault ho hh hv hr

/-! ### The stages in order -/

/-- A stage reached from `s` leaves `t`: it runs unless the tick has ended (40_pipeline R122). -/
def StageStep (f : State → Result) (s t : State) : Prop :=
  (s.status = .running ∧ f s = .next t) ∨ (s.status ≠ .running ∧ t = s)

/-- A reflexive relation that a stage meets holds also where the tick has ended before it. -/
theorem StageStep.lift {f : State → Result} {R : State → State → Prop} {s t : State} (h : StageStep f s t) (refl : R s s)
    (run : s.status = .running → f s = .next t → R s t) : R s t := by
  obtain ⟨hs, h⟩ | ⟨-, rfl⟩ := h
  · exact run hs h
  · exact refl

/-- A tick that is still going has run the stage. -/
theorem StageStep.of_running {f : State → Result} {s t : State} (h : StageStep f s t) (ht : t.status = .running) :
    s.status = .running ∧ f s = .next t := by
  obtain h | ⟨hs, rfl⟩ := h
  · exact h
  · exact absurd ht hs

/-- The states between the stages of a tick from `s` to `t` (40_pipeline R120): after Writeback, each unit, and Decode. -/
structure TickStages (s t a b c d e : State) : Prop where
  writeback : writeback { s with clock := s.clock + 1#64 } = .next a
  loadStore : StageStep loadStore a b
  multiply : StageStep multiply b c
  integer : StageStep integer c d
  decode : StageStep decodeStage d e
  fetch : StageStep fetch e t

/-- The tick of a RUNNING core goes through its stages in order. -/
theorem step_stages {s t : State} (hs : s.status = .running) (h : step s = .next t) :
    ∃ a b c d e, TickStages s t a b c d e := by
  rw [tick_of_running hs] at h
  obtain ⟨e, h, hf⟩ := Result.andThen_eq_next.mp h
  obtain ⟨d, h, hd⟩ := Result.andThen_eq_next.mp h
  obtain ⟨c, h, hi⟩ := Result.andThen_eq_next.mp h
  obtain ⟨b, h, hm⟩ := Result.andThen_eq_next.mp h
  obtain ⟨a, hw, hl⟩ := Result.andThen_eq_next.mp h
  exact ⟨a, b, c, d, e, hw, hl, hm, hi, hd, hf⟩

/-- Every state steps to a next state. -/
theorem step_next (s : State) : ∃ t, step s = .next t := by
  by_cases hs : s.status = .running
  · rw [tick_of_running hs]
    exact Result.andThen_next (Result.andThen_next (Result.andThen_next (Result.andThen_next (Result.andThen_next
      (writeback_next _) loadStore_next) multiply_next) integer_next) decodeStage_next) fetch_next
  · exact ⟨s, tick_of_not_running hs⟩

end Sys2Proof.Machine
end

section
/-! PROOF SUPPORT. Frames: what each part of a tick leaves unchanged, as reflexive and transitive relations between the states
before and after it, so that they compose along the stages of a tick. -/

namespace Sys2Proof.Machine

/-! ### What every stage after Writeback keeps -/

/-- Writeback alone writes registers and counts; a later stage either keeps status and fault record or leaves FAULTED with a
record (10_state R22, R30, R38). -/
structure StageKeeps (s t : State) : Prop where
  cfg : t.cfg = s.cfg
  code : t.code = s.code
  clock : t.clock = s.clock
  retired : t.retired = s.retired
  x : t.x = s.x
  fault : (t.status = s.status ∧ t.fault = s.fault) ∨ (t.status = .faulted ∧ t.fault.isSome = true)

theorem StageKeeps.refl (s : State) : StageKeeps s s := ⟨rfl, rfl, rfl, rfl, rfl, .inl ⟨rfl, rfl⟩⟩

theorem StageKeeps.trans {s t u : State} (h : StageKeeps s t) (g : StageKeeps t u) : StageKeeps s u where
  cfg := g.cfg.trans h.cfg
  code := g.code.trans h.code
  clock := g.clock.trans h.clock
  retired := g.retired.trans h.retired
  x := g.x.trans h.x
  fault := by
    rcases g.fault with ⟨e, e'⟩ | g
    · rw [e, e']; exact h.fault
    · exact .inr g

theorem StageKeeps.raise (s : State) (k : FaultKind) (q : Option Nat) (a : Option Int) : StageKeeps s (s.raise k q a) :=
  ⟨rfl, rfl, rfl, rfl, rfl, .inr ⟨rfl, rfl⟩⟩

/-- A stage that keeps the match of fault record and status. -/
theorem StageKeeps.faultMatches {s t : State} (h : StageKeeps s t) (hs : s.faultMatches) : t.faultMatches := by
  unfold State.faultMatches at *
  rcases h.fault with ⟨e, e'⟩ | ⟨e, e'⟩
  · rw [e, e']; exact hs
  · exact ⟨fun _ => e, fun _ => e'⟩

/-! ### What the units keep -/

/-- The units touch neither scoreboard nor queue, flush the Decode latch or leave it alone, and take no new instruction
(40_pipeline R171). -/
structure UnitsKeep (s t : State) : Prop extends StageKeeps s t where
  sb : t.sb = s.sb
  rq : t.rq = s.rq
  f : t.f = s.f
  decode : t.d.occ = true → t.d = s.d
  units : ∀ v, (t.unit v).occ = true → (s.unit v).occ = true ∧ (t.unit v).instr = (s.unit v).instr

theorem UnitsKeep.refl (s : State) : UnitsKeep s s :=
  ⟨.refl s, rfl, rfl, rfl, fun _ => rfl, fun _ h => ⟨h, rfl⟩⟩

theorem UnitsKeep.trans {s t u : State} (h : UnitsKeep s t) (g : UnitsKeep t u) : UnitsKeep s u where
  toStageKeeps := h.toStageKeeps.trans g.toStageKeeps
  sb := g.sb.trans h.sb
  rq := g.rq.trans h.rq
  f := g.f.trans h.f
  decode o := by rw [g.decode o]; exact h.decode (g.decode o ▸ o)
  units v o := by
    obtain ⟨o', e⟩ := g.units v o
    obtain ⟨o'', e'⟩ := h.units v o'
    exact ⟨o'', e.trans e'⟩

theorem UnitsKeep.raise (s : State) (k : FaultKind) (q : Option Nat) (a : Option Int) : UnitsKeep s (s.raise k q a) :=
  ⟨.raise s k q a, rfl, rfl, rfl, fun _ => rfl, fun v h => by simpa using h⟩

/-- A latch of a unit may change if it takes no new instruction. -/
theorem UnitsKeep.setUnit (s : State) (u : UnitId) (l : Latch)
    (hl : l.occ = true → (s.unit u).occ = true ∧ l.instr = (s.unit u).instr) : UnitsKeep s (s.setUnit u l) where
  cfg := by simp
  code := by simp
  clock := by simp
  retired := by simp
  x := by simp
  fault := .inl (by simp)
  sb := by simp
  rq := by simp
  f := by simp
  decode _ := by simp
  units v := by
    by_cases hv : v = u
    · subst hv; simpa using hl
    · rw [State.setUnit_unit_of_ne s l hv]; exact fun h => ⟨h, rfl⟩

/-- Fields outside the frame: Z, the data memory and the Writeback latch. -/
theorem UnitsKeep.of_zMemWb (s : State) (b : Bool) (m : List (Nat × Word)) (w : Latch) :
    UnitsKeep s { s with z := b, dmem := m, wb := w } :=
  ⟨⟨rfl, rfl, rfl, rfl, rfl, .inl ⟨rfl, rfl⟩⟩, rfl, rfl, rfl, fun _ => rfl, fun v h => by cases v <;> exact ⟨h, rfl⟩⟩

theorem ExecEffect.keeps {i : Instr} {s t : State} (h : ExecEffect i s t) : UnitsKeep s t := by
  cases h with
  | result r ea b m _ _ =>
    have hu : ({ s with z := b, dmem := m } : State).unit (unitOf i) = s.unit (unitOf i) := by cases unitOf i <;> rfl
    exact (UnitsKeep.of_zMemWb s b m s.wb).trans (.setUnit _ _ _ fun o => by rw [hu]; exact ⟨o, rfl⟩)
  | redirect imm _ =>
    exact ⟨⟨rfl, rfl, rfl, rfl, rfl, .inl ⟨rfl, rfl⟩⟩, rfl, rfl, rfl, fun h => absurd h (by simp),
      fun v h => by cases v <;> exact ⟨h, rfl⟩⟩
  | fault ea k a =>
    exact (UnitsKeep.setUnit s (unitOf i) { s.unit (unitOf i) with ea := ea } fun o => ⟨o, rfl⟩).trans (.raise _ _ _ _)

theorem HandOff.keeps {u : UnitId} {s t : State} (h : HandOff u s t) : UnitsKeep s t := by
  cases h with
  | fault => exact .raise _ _ _ _
  | wait _ => exact .refl s
  | move _ _ => exact (UnitsKeep.of_zMemWb s s.z s.dmem (s.unit u)).trans (.setUnit _ _ _ fun o => absurd o (by simp))

theorem UnitsKeep.counted (s : State) (u : UnitId) : UnitsKeep s (s.counted u) := .setUnit _ _ _ fun o => ⟨o, rfl⟩

theorem UnitsKeep.markDone (s : State) (u : UnitId) : UnitsKeep s (s.markDone u) := .setUnit _ _ _ fun o => ⟨o, rfl⟩

theorem UnitTick.keeps {u : UnitId} {lat : Nat} {s t : State} (h : UnitTick u lat s t) : UnitsKeep s t := by
  cases h with
  | idle _ => exact .refl s
  | count _ _ _ => exact .counted s u
  | fault _ _ _ run _ => exact (UnitsKeep.counted s u).trans (exec_effect run).keeps
  | final _ _ _ run _ off =>
    exact (UnitsKeep.counted s u).trans ((exec_effect run).keeps.trans ((UnitsKeep.markDone _ u).trans off.keeps))
  | done _ _ off => exact off.keeps

theorem IntTick.keeps {s t : State} (h : IntTick s t) : UnitsKeep s t := by
  cases h with
  | idle _ => exact .refl s
  | noQueue => exact .raise _ _ _ _
  | fault _ _ run _ => exact (exec_effect run).keeps
  | compute _ _ run _ off => exact (exec_effect run).keeps.trans ((UnitsKeep.markDone _ _).trans off.keeps)

theorem loadStore_keeps {s t : State} (h : StageStep loadStore s t) : UnitsKeep s t :=
  h.lift (.refl s) fun hr h => (loadStore_tick hr h).keeps

theorem multiply_keeps {s t : State} (h : StageStep multiply s t) : UnitsKeep s t :=
  h.lift (.refl s) fun hr h => (multiply_tick hr h).keeps

theorem integer_keeps {s t : State} (h : StageStep integer s t) : UnitsKeep s t :=
  h.lift (.refl s) fun _ h => (integer_tick h).keeps

/-- The three units together. -/
theorem TickStages.unitsKeep {s t a b c d e : State} (h : TickStages s t a b c d e) : UnitsKeep a d :=
  (loadStore_keeps h.loadStore).trans ((multiply_keeps h.multiply).trans (integer_keeps h.integer))

/-! ### What a unit that counts its cycles keeps -/

/-- Each unit holds an instruction routed to it, said for the unit (40_pipeline R141). -/
theorem State.routed_iff {s : State} : s.routed ↔ ∀ u, (s.unit u).occ = true → unitOf (s.unit u).instr = u := by
  constructor
  · rintro ⟨hi, hm, hl⟩ u
    cases u
    · exact hi
    · exact hm
    · exact hl
  · exact fun h => ⟨h .int, h .mul, h .ls⟩

theorem UnitsKeep.routed {s t : State} (h : UnitsKeep s t) (hs : s.routed) : t.routed := by
  rw [State.routed_iff] at *
  intro u o
  obtain ⟨o', e⟩ := h.units u o
  rw [e]
  exact hs u o'

/-- Only Integer-unit instructions are branches. -/
theorem unitOf_of_branch {i : Instr} {imm : Word} (h : i = .bz imm ∨ i = .bnz imm) : unitOf i = .int := by
  rcases h with rfl | rfl <;> rfl

/-- The Multiplier and the Load/Store unit touch no fetch state, no Decode latch and no other unit. -/
structure OtherUnitsKept (u : UnitId) (s t : State) : Prop where
  pc : t.pc = s.pc
  redirect : t.redirect = s.redirect
  fetchEn : t.fetchEn = s.fetchEn
  d : t.d = s.d
  unit : ∀ v, v ≠ u → t.unit v = s.unit v

theorem OtherUnitsKept.refl (u : UnitId) (s : State) : OtherUnitsKept u s s := ⟨rfl, rfl, rfl, rfl, fun _ _ => rfl⟩

theorem OtherUnitsKept.trans {u : UnitId} {s t v : State} (h : OtherUnitsKept u s t) (g : OtherUnitsKept u t v) :
    OtherUnitsKept u s v :=
  ⟨g.pc.trans h.pc, g.redirect.trans h.redirect, g.fetchEn.trans h.fetchEn, g.d.trans h.d,
    fun w hw => (g.unit w hw).trans (h.unit w hw)⟩

theorem OtherUnitsKept.setUnit (s : State) (u : UnitId) (l : Latch) : OtherUnitsKept u s (s.setUnit u l) :=
  ⟨by simp, by simp, by simp, by simp, fun _ hv => State.setUnit_unit_of_ne s l hv⟩

theorem OtherUnitsKept.raise (s : State) (u : UnitId) (k : FaultKind) (q : Option Nat) (a : Option Int) :
    OtherUnitsKept u s (s.raise k q a) := ⟨rfl, rfl, rfl, rfl, fun _ _ => by simp⟩

theorem OtherUnitsKept.of_zMemWb (s : State) (u : UnitId) (b : Bool) (m : List (Nat × Word)) (w : Latch) :
    OtherUnitsKept u s { s with z := b, dmem := m, wb := w } := ⟨rfl, rfl, rfl, rfl, fun v _ => by cases v <;> rfl⟩

/-- A computation keeps the fetch state and every other unit, or it is a taken branch. -/
theorem ExecEffect.others_or_redirect {i : Instr} {s t : State} (h : ExecEffect i s t) : OtherUnitsKept (unitOf i) s t ∨
    ∃ imm, (i = .bz imm ∨ i = .bnz imm) ∧ t = s.redirectTo (branchTarget s.int.pc imm) := by
  cases h with
  | result r ea b m _ _ => exact .inl ((OtherUnitsKept.of_zMemWb s _ b m s.wb).trans (.setUnit _ _ _))
  | redirect imm e => exact .inr ⟨imm, e, rfl⟩
  | fault ea k a => exact .inl ((OtherUnitsKept.setUnit s _ _).trans (.raise _ _ _ _ _))

/-- The computation of an instruction that is no branch keeps the fetch state and every other unit. -/
theorem ExecEffect.others {i : Instr} {s t : State} (h : ExecEffect i s t) (hb : isBranch i = false) :
    OtherUnitsKept (unitOf i) s t :=
  h.others_or_redirect.resolve_right fun ⟨imm, e, _⟩ => by rw [isBranch_iff.mpr ⟨imm, e⟩] at hb; cases hb

/-- A computation touches no other unit's latch. -/
theorem ExecEffect.unit {i : Instr} {s t : State} (h : ExecEffect i s t) (v : UnitId) (hv : v ≠ unitOf i) : t.unit v = s.unit v := by
  rcases h.others_or_redirect with o | ⟨imm, -, rfl⟩
  · exact o.unit v hv
  · simp

/-- A computation changes the data memory only by a store, at the address the store computes. -/
theorem ExecEffect.dmem {i : Instr} {s t : State} (h : ExecEffect i s t) :
    t.dmem = s.dmem ∨
      ∃ a v, storedAddress i s.ls = some a ∧ validAddress s.cfg a = true ∧ t.dmem = Memory.write s.dmem a.toNat v := by
  cases h with
  | result r ea b m _ hm =>
    exact hm.imp (fun h => by simpa using h.2) fun ⟨a, v, hs, hv, e⟩ => ⟨a, v, hs, hv, by simpa using e⟩
  | redirect _ _ => exact .inl rfl
  | fault _ _ _ => exact .inl (by simp)

theorem HandOff.others {u : UnitId} {s t : State} (h : HandOff u s t) : OtherUnitsKept u s t := by
  cases h with
  | fault => exact .raise _ _ _ _ _
  | wait _ => exact .refl u s
  | move _ _ => exact (OtherUnitsKept.of_zMemWb s u s.z s.dmem (s.unit u)).trans (.setUnit _ _ _)

theorem isBranch_of_unitOf {i : Instr} (h : unitOf i ≠ .int) : isBranch i = false := by
  by_contra hb
  obtain ⟨imm, e⟩ := isBranch_iff.mp (Bool.not_eq_false _ ▸ hb)
  exact h (unitOf_of_branch e)

/-- A unit that counts its cycles, holding an instruction routed to it. -/
theorem UnitTick.others {u : UnitId} {lat : Nat} {s t : State} (h : UnitTick u lat s t) (hs : s.routed) (hu : u ≠ .int) :
    OtherUnitsKept u s t := by
  have run : ∀ {v}, (s.unit u).occ = true → exec (s.unit u).instr (s.counted u) = .next v → OtherUnitsKept u s v := by
    intro v o e
    have hr := State.routed_iff.mp hs u o
    have g := (exec_effect e).others (isBranch_of_unitOf (by rw [hr]; exact hu))
    rw [hr] at g
    exact (OtherUnitsKept.setUnit s u _).trans g
  cases h with
  | idle _ => exact .refl u s
  | count _ _ _ => exact .setUnit s u _
  | fault o _ _ e _ => exact run o e
  | final o _ _ e _ off => exact (run o e).trans ((OtherUnitsKept.setUnit _ u _).trans off.others)
  | done _ _ off => exact off.others

theorem loadStore_others {s t : State} (h : StageStep loadStore s t) (hs : s.routed) : OtherUnitsKept .ls s t :=
  h.lift (.refl _ s) fun hr h => (loadStore_tick hr h).others hs (by decide)

theorem multiply_others {s t : State} (h : StageStep multiply s t) (hs : s.routed) : OtherUnitsKept .mul s t :=
  h.lift (.refl _ s) fun hr h => (multiply_tick hr h).others hs (by decide)

/-! ### The zero flag in the units -/

theorem ExecEffect.z {i : Instr} {s t : State} (h : ExecEffect i s t) : t.z = s.z ∨ writesZ i = true := by
  cases h with
  | result r ea b m hz _ => simpa using hz
  | redirect _ _ => exact .inl rfl
  | fault _ _ _ => exact .inl (by simp)

theorem HandOff.z {u : UnitId} {s t : State} (h : HandOff u s t) : t.z = s.z := by
  cases h <;> simp [State.handedOff]

/-- A unit that counts its cycles changes Z only on the final cycle of an opcode that writes Z. -/
theorem UnitTick.z {u : UnitId} {lat : Nat} {s t : State} (h : UnitTick u lat s t) :
    t.z = s.z ∨
      ((s.unit u).occ = true ∧ writesZ (s.unit u).instr = true ∧ (s.unit u).st = .busy ∧ (s.unit u).count + 1 = lat) := by
  have run : ∀ {v}, exec (s.unit u).instr (s.counted u) = .next v → v.z = s.z ∨ writesZ (s.unit u).instr = true := fun e => by
    simpa [State.counted] using (exec_effect e).z
  cases h with
  | idle _ => exact .inl rfl
  | count _ _ _ => exact .inl (by simp [State.counted])
  | fault o st last e _ => exact (run e).imp_right fun w => ⟨o, w, st, last⟩
  | final o st last e _ off =>
    rw [off.z]
    exact (run e).imp (fun h => by simpa [State.markDone] using h) fun w => ⟨o, w, st, last⟩
  | done _ _ off => exact .inl off.z

/-- The Integer unit changes Z only at the queue head, by an opcode that writes Z. -/
theorem IntTick.z {s t : State} (h : IntTick s t) :
    t.z = s.z ∨ (s.int.occ = true ∧ writesZ s.int.instr = true ∧ s.rq.head? = some s.int.seq) := by
  cases h with
  | idle _ => exact .inl rfl
  | noQueue => exact .inl rfl
  | fault o head e _ => exact (exec_effect e).z.imp_right fun w => ⟨o, w, head⟩
  | compute o head e _ off =>
    rw [off.z]
    exact (exec_effect e).z.imp (fun h => by simpa [State.markDone] using h) fun w => ⟨o, w, head⟩

theorem writesZ_of_ls {i : Instr} (h : unitOf i = .ls) : writesZ i = false := by
  cases i with
  | load | store | ldr | str => rfl
  | _ => cases h

/-- The Load/Store unit never changes Z (10_state R26). -/
theorem loadStore_z {s t : State} (h : StageStep loadStore s t) (hs : s.routed) : t.z = s.z := by
  refine h.lift (R := fun s t => s.routed → t.z = s.z) (fun _ => rfl) (fun hr h hs => ?_) hs
  exact (loadStore_tick hr h).z.resolve_right fun ⟨o, w, _⟩ => absurd ((writesZ_of_ls (hs.2.2 o)).symm.trans w) (by decide)

theorem multiply_z {s t : State} (h : StageStep multiply s t) :
    t.z = s.z ∨ (s.mul.occ = true ∧ s.mul.st = .busy ∧ s.mul.count + 1 = Config.mulLat) :=
  h.lift (R := fun s t => t.z = s.z ∨ (s.mul.occ = true ∧ s.mul.st = .busy ∧ s.mul.count + 1 = Config.mulLat)) (.inl rfl)
    fun hr h => (multiply_tick hr h).z.imp_right fun ⟨o, _, st, last⟩ => ⟨o, st, last⟩

theorem integer_z {s t : State} (h : StageStep integer s t) :
    t.z = s.z ∨ (s.int.occ = true ∧ writesZ s.int.instr = true ∧ s.rq.head? = some s.int.seq) :=
  h.lift (R := fun s t => t.z = s.z ∨ (s.int.occ = true ∧ writesZ s.int.instr = true ∧ s.rq.head? = some s.int.seq)) (.inl rfl)
    fun _ h => (integer_tick h).z

/-! ### The pc in the Integer unit -/

/-- The fetch state stays, or the branch in the Integer unit has redirected it (10_state R24, 40_pipeline R170). -/
def KeptOrRedirected (s t : State) : Prop :=
  (t.pc = s.pc ∧ t.redirect = s.redirect) ∨
    (s.int.occ = true ∧ t.redirect = true ∧
      ∃ imm, (s.int.instr = .bz imm ∨ s.int.instr = .bnz imm) ∧ t.pc = branchTarget s.int.pc imm)

theorem KeptOrRedirected.of_exec {s t : State} (o : s.int.occ = true) (h : ExecEffect s.int.instr s t) : KeptOrRedirected s t := by
  cases h with
  | result _ _ _ _ _ _ => exact .inl (by simp)
  | redirect imm hb => exact .inr ⟨o, rfl, imm, hb, rfl⟩
  | fault _ _ _ => exact .inl (by simp)

theorem integer_pc {s t : State} (h : StageStep integer s t) : KeptOrRedirected s t := by
  refine h.lift (.inl ⟨rfl, rfl⟩) fun _ h => ?_
  cases integer_tick h with
  | idle _ => exact .inl ⟨rfl, rfl⟩
  | noQueue => exact .inl ⟨rfl, rfl⟩
  | fault o _ run _ => exact .of_exec o (exec_effect run)
  | @compute v _ o _ run _ off =>
    have hp : t.pc = v.pc := by rw [off.others.pc]; simp [State.markDone]
    have hr : t.redirect = v.redirect := by rw [off.others.redirect]; simp [State.markDone]
    have k := KeptOrRedirected.of_exec o (exec_effect run)
    unfold KeptOrRedirected at *
    rw [hp, hr]
    exact k

/-! ### Writeback -/

/-- Writeback's frame: it does nothing, raises a fault, or retires the instruction at the queue head (40_pipeline R165, R166). -/
inductive WritebackTick (s : State) : State → Prop
  | idle (empty : s.wb.occ = false) : WritebackTick s s
  | fault : WritebackTick s (s.raise .internalFault (some s.wb.seq) none)
  | retire (occ : s.wb.occ = true) (head : s.rq.head? = some s.wb.seq) : WritebackTick s (afterRetire s)

theorem writeback_retires {s : State} (occ : s.wb.occ = true) (head : s.rq.head? = some s.wb.seq) :
    writeback s = .next (afterRetire s) := by
  rcases writeback_cases s with ⟨ho, -⟩ | ⟨-, hh, -⟩ | ⟨-, -, e⟩
  · rw [ho] at occ; cases occ
  · exact absurd head hh
  · exact e

theorem writeback_tick {s t : State} (h : writeback s = .next t) : WritebackTick s t := by
  rcases writeback_cases s with ⟨ho, e⟩ | ⟨-, -, e⟩ | ⟨ho, hh, e⟩ <;> rw [e] at h <;> cases h
  · exact .idle ho
  · exact .fault
  · exact .retire ho hh

/-- Whatever Writeback does, these components stay. -/
structure WritebackKeeps (s t : State) : Prop where
  cfg : t.cfg = s.cfg
  code : t.code = s.code
  clock : t.clock = s.clock
  pc : t.pc = s.pc
  z : t.z = s.z
  d : t.d = s.d
  unit : ∀ u, t.unit u = s.unit u

theorem WritebackKeeps.routed {s t : State} (h : WritebackKeeps s t) (hs : s.routed) : t.routed := by
  rw [State.routed_iff] at *
  intro u
  rw [h.unit u]
  exact hs u

theorem WritebackTick.keeps {s t : State} (h : WritebackTick s t) : WritebackKeeps s t := by
  cases h with
  | idle _ => exact ⟨rfl, rfl, rfl, rfl, rfl, rfl, fun _ => rfl⟩
  | fault => exact ⟨rfl, rfl, rfl, rfl, rfl, rfl, fun u => by simp⟩
  | retire _ _ => exact ⟨rfl, rfl, rfl, rfl, rfl, rfl, fun u => by cases u <;> rfl⟩

/-! ### Decode -/

/-- Decode's attempt to dispatch: wait for the unit, fail the internal check, or dispatch (40_pipeline R136 to R142). -/
inductive Dispatch (s : State) : State → Prop
  | wait (full : (s.unit (unitOf s.d.instr)).occ = true) : Dispatch s s
  | fault : Dispatch s (s.raise .internalFault (some s.d.seq) none)
  | go (room : (s.unit (unitOf s.d.instr)).occ = false) : Dispatch s (afterDispatch s)

theorem dispatch_eq (s : State) : dispatch s =
    if (s.unit (unitOf s.d.instr)).occ = true then .next s
    else if s.rq.length = Config.rqCap then .next (s.raise .internalFault (some s.d.seq) none)
    else .next (afterDispatch s) := by
  simp [dispatch, afterDispatch]

theorem dispatch_effect {s t : State} (h : dispatch s = .next t) : Dispatch s t := by
  rcases dispatch_cases s with ⟨hu, e⟩ | ⟨-, -, e⟩ | ⟨hu, -, e⟩ <;> rw [e] at h <;> cases h
  · exact .wait hu
  · exact .fault
  · exact .go hu

/-- The tick of Decode: nothing, a fetch fault, or an attempt to dispatch with the operands read now or before (40_pipeline R131 to
R136). -/
inductive DecodeTick (s : State) : State → Prop
  | idle : DecodeTick s s
  | fetchFault : DecodeTick s (s.raise .fetchFault none (some s.d.pc))
  | read {t : State} (occ : s.d.occ = true) (valid : s.d.invalid = false) (clear : s.hazard s.d.instr = false)
      (go : Dispatch s.readOperands t) : DecodeTick s t
  | await {t : State} (occ : s.d.occ = true) (valid : s.d.invalid = false) (phase : s.d.phase = .awaitUnit) (go : Dispatch s t) :
      DecodeTick s t

theorem decodeStage_tick {s t : State} (h : decodeStage s = .next t) : DecodeTick s t := by
  rcases decodeStage_cases s with ⟨-, e⟩ | ⟨-, -, -, e⟩ | ⟨-, -, -, e⟩ | ⟨-, -, -, -, e⟩ | ⟨ho, hi, -, hh, e⟩ |
    ⟨ho, hi, hp, e⟩ <;> rw [e] at h
  · cases h; exact .idle
  · cases h; exact .fetchFault
  · cases h; exact .idle
  · cases h; exact .idle
  · exact .read ho hi hh (dispatch_effect h)
  · exact .await ho hi hp (dispatch_effect h)

/-- Decode touches no fetch state and no flag. -/
structure DecodeKeeps (s t : State) : Prop extends StageKeeps s t where
  pc : t.pc = s.pc
  redirect : t.redirect = s.redirect
  z : t.z = s.z

theorem DecodeKeeps.refl (s : State) : DecodeKeeps s s := ⟨.refl s, rfl, rfl, rfl⟩

theorem DecodeKeeps.raise (s : State) (k : FaultKind) (q : Option Nat) (a : Option Int) : DecodeKeeps s (s.raise k q a) :=
  ⟨.raise s k q a, rfl, rfl, rfl⟩

theorem DecodeKeeps.readOperands {s t : State} (h : DecodeKeeps s.readOperands t) : DecodeKeeps s t :=
  ⟨⟨h.cfg, h.code, h.clock, h.retired, h.x, h.fault⟩, h.pc, h.redirect, h.z⟩

theorem DecodeKeeps.afterDispatch (s : State) : DecodeKeeps s (afterDispatch s) where
  cfg := by simp [Machine.afterDispatch]
  code := by simp [Machine.afterDispatch]
  clock := by simp [Machine.afterDispatch]
  retired := by simp [Machine.afterDispatch]
  x := by simp [Machine.afterDispatch]
  fault := .inl (by simp [Machine.afterDispatch])
  pc := by simp [Machine.afterDispatch]
  redirect := by simp [Machine.afterDispatch]
  z := by simp [Machine.afterDispatch]

theorem Dispatch.keeps {s t : State} (h : Dispatch s t) : DecodeKeeps s t := by
  cases h with
  | wait _ => exact .refl s
  | fault => exact .raise _ _ _ _
  | go _ => exact .afterDispatch s

theorem DecodeTick.keeps {s t : State} (h : DecodeTick s t) : DecodeKeeps s t := by
  cases h with
  | idle => exact .refl s
  | fetchFault => exact .raise _ _ _ _
  | read _ _ _ go => exact go.keeps.readOperands
  | await _ _ _ go => exact go.keeps

theorem decode_keeps {s t : State} (h : StageStep decodeStage s t) : DecodeKeeps s t :=
  h.lift (.refl s) fun _ h => (decodeStage_tick h).keeps

/-- Decode leaves queue and scoreboard alone, or appends its instruction and reserves its destination (40_pipeline R138, R139). -/
def Enqueued (s t : State) : Prop :=
  (t.rq = s.rq ∧ t.sb = s.sb) ∨
    (s.d.occ = true ∧ s.d.invalid = false ∧ t.rq = s.rq ++ [s.d.seq] ∧ t.sb = (s.reserve s.d.instr).sb)

theorem afterDispatch_sb (s : State) : (afterDispatch s).sb = (s.reserve s.d.instr).sb := by
  rw [State.reserve_sb, afterDispatch, State.reserve_sb, State.setUnit_sb]

theorem Dispatch.enqueued {s t : State} (h : Dispatch s t) (occ : s.d.occ = true) (valid : s.d.invalid = false) : Enqueued s t := by
  cases h with
  | wait _ => exact .inl ⟨rfl, rfl⟩
  | fault => exact .inl ⟨rfl, rfl⟩
  | go _ => exact .inr ⟨occ, valid, rfl, afterDispatch_sb s⟩

theorem Enqueued.readOperands {s t : State} (h : Enqueued s.readOperands t) : Enqueued s t := by
  simpa [Enqueued, State.reserve_sb] using h

theorem decode_enqueued {s t : State} (h : StageStep decodeStage s t) : Enqueued s t := by
  refine h.lift (.inl ⟨rfl, rfl⟩) fun _ h => ?_
  cases decodeStage_tick h with
  | idle => exact .inl ⟨rfl, rfl⟩
  | fetchFault => exact .inl ⟨rfl, rfl⟩
  | read o v _ go => exact (go.enqueued o v).readOperands
  | await o v _ go => exact go.enqueued o v

/-- A dispatch changes the latches of the units as it fills its unit's. -/
theorem afterDispatch_unit (s : State) (u : UnitId) : (afterDispatch s).unit u =
    (s.setUnit (unitOf s.d.instr) { s.d.toLatch with count := 0, st := .busy, occ := true }).unit u := by
  cases u <;> simp [afterDispatch, State.unit]

/-- A dispatch goes to the unit of its instruction (40_pipeline R141). -/
theorem Dispatch.routed {s t : State} (h : Dispatch s t) (hs : s.routed) : t.routed := by
  cases h with
  | wait _ => exact hs
  | fault => exact hs
  | go _ =>
    rw [State.routed_iff] at *
    intro u
    rw [afterDispatch_unit]
    by_cases hu : u = unitOf s.d.instr
    · subst hu; simp
    · rw [State.setUnit_unit_of_ne _ _ hu]; exact hs u

theorem decode_routed {s t : State} (h : StageStep decodeStage s t) (hs : s.routed) : t.routed := by
  refine h.lift (R := fun s t => s.routed → t.routed) id (fun _ h hs => ?_) hs
  cases decodeStage_tick h with
  | idle => exact hs
  | fetchFault => exact hs
  | read _ _ _ go => exact go.routed hs
  | await _ _ _ go => exact go.routed hs

/-! ### Fetch -/

/-- Fetch touches only the fetch state and the Decode latch, and advances the pc only when it is not suppressed (40_pipeline R125 to
R130). -/
structure FetchKeeps (s t : State) : Prop extends StageKeeps s t where
  z : t.z = s.z
  sb : t.sb = s.sb
  rq : t.rq = s.rq
  unit : ∀ u, t.unit u = s.unit u
  pc : t.pc = s.pc ∨ (s.redirect = false ∧ t.pc = s.pc + 4)

theorem FetchKeeps.refl (s : State) : FetchKeeps s s := ⟨.refl s, rfl, rfl, rfl, fun _ => rfl, .inl rfl⟩

theorem fetch_keeps {s t : State} (h : StageStep fetch s t) : FetchKeeps s t := by
  refine h.lift (.refl s) fun _ h => ?_
  have base : ∀ (f : Latch) (d : DecodeLatch) (p : Int) (en re : Bool), (p = s.pc ∨ (s.redirect = false ∧ p = s.pc + 4)) →
      FetchKeeps s { s with f := f, d := d, pc := p, fetchEn := en, redirect := re } := fun f d p en re hp =>
    ⟨⟨rfl, rfl, rfl, rfl, rfl, .inl ⟨rfl, rfl⟩⟩, rfl, rfl, rfl, fun u => by cases u <;> rfl, hp⟩
  rcases fetch_cases s with ⟨-, e⟩ | ⟨-, -, e⟩ | ⟨hr, -, -, k, i, -, e⟩ | ⟨-, -, -, -, e⟩ <;> rw [e] at h <;> cases h
  · exact base _ _ _ _ _ (.inl rfl)
  · exact .refl s
  · exact base _ _ _ _ _ (.inr ⟨hr, rfl⟩)
  · exact base _ _ _ _ _ (.inl rfl)

theorem fetch_routed {s t : State} (h : StageStep fetch s t) (hs : s.routed) : t.routed := by
  rw [State.routed_iff] at *
  intro u
  rw [(fetch_keeps h).unit u]
  exact hs u

/-! ### The stages after Writeback together -/

theorem TickStages.keeps {s t a b c d e : State} (h : TickStages s t a b c d e) : StageKeeps a t :=
  h.unitsKeep.toStageKeeps.trans ((decode_keeps h.decode).toStageKeeps.trans (fetch_keeps h.fetch).toStageKeeps)

/-- Before its first stage a tick has only counted itself. -/
theorem TickStages.writebackKeeps {s t a b c d e : State} (h : TickStages s t a b c d e) :
    WritebackKeeps { s with clock := s.clock + 1#64 } a := (writeback_tick h.writeback).keeps

/-- Up to the Integer unit a tick leaves the pc and the Integer unit's latch alone, and up to the Multiplier that unit's latch. -/
structure KeptBeforeInteger (s b c : State) : Prop where
  pc : c.pc = s.pc
  int : c.int = s.int
  mul : b.mul = s.mul

theorem TickStages.beforeInteger {s t a b c d e : State} (h : TickStages s t a b c d e) (hs : s.routed) :
    KeptBeforeInteger s b c := by
  have w := h.writebackKeeps
  have ha : a.routed := w.routed hs
  have l := loadStore_others h.loadStore ha
  have m := multiply_others h.multiply ((loadStore_keeps h.loadStore).routed ha)
  exact ⟨m.pc.trans (l.pc.trans w.pc), (m.unit .int (by decide)).trans ((l.unit .int (by decide)).trans (w.unit .int)),
    (l.unit .mul (by decide)).trans (w.unit .mul)⟩

/-- Every tick keeps each unit's routing (40_pipeline R141). -/
theorem TickStages.routed {s t a b c d e : State} (h : TickStages s t a b c d e) (hs : s.routed) : t.routed :=
  fetch_routed h.fetch (decode_routed h.decode (h.unitsKeep.routed (h.writebackKeeps.routed hs)))

end Sys2Proof.Machine
end

section
/-! The newly constructed core: O9, O10. -/

namespace Sys2Proof.Machine

/-- A newly constructed core has nothing in flight (70_reset R360). -/
theorem State.constructed_not_inFlight (cfg : Config) (code : List Instr) (h : Holder) :
    ¬(State.constructed cfg code).inFlight h := by
  cases h <;> exact Bool.false_ne_true

theorem State.constructed_memoryOk (cfg : Config) (code : List Instr) : (State.constructed cfg code).memoryOk :=
  ⟨State.constructed_memory_wf cfg code, fun _ h => absurd h List.not_mem_nil⟩

theorem State.constructed_routed (cfg : Config) (code : List Instr) : (State.constructed cfg code).routed :=
  ⟨nofun, nofun, nofun⟩

theorem State.constructed_faultMatches (cfg : Config) (code : List Instr) : (State.constructed cfg code).faultMatches :=
  ⟨nofun, nofun⟩

/-- Settles O9: nothing is in flight and fetching is enabled. -/
theorem constructedCoreMeetsThePipelineInvariant : Obligations.ConstructedCoreMeetsThePipelineInvariant := by
  intro cfg code hcfg
  have nothing := State.constructed_not_inFlight cfg code
  exact {
    running := rfl
    noFault := rfl
    params := hcfg
    memory := State.constructed_memoryOk cfg code
    noRedirect := rfl
    queue := ⟨[], List.nodup_nil, fun h => ⟨nofun, fun f => absurd f (nothing h)⟩, rfl, nofun, nofun⟩
    busy := fun r => ⟨fun h => by simp [State.constructed] at h, fun ⟨h, f, _⟩ => absurd f (nothing h)⟩
    oneWriter := fun _ h _ f _ => absurd f.1 (nothing h)
    heldFromTable := fun h f => absurd f (nothing h)
    decodeFromTable := nofun
    awaitClear := nofun
    intUnit := nofun
    mulUnit := nofun
    lsUnit := nofun
    emptyFree := ⟨fun _ => rfl, fun _ => rfl, fun _ => rfl⟩
    decodeStops := nofun
    haltInInt := nofun
    haltInWb := nofun
    stopHasCause := nofun }

/-- Settles O10. -/
theorem constructedCoreMeetsTheStepInvariants : Obligations.ConstructedCoreMeetsTheStepInvariants :=
  ⟨fun cfg code => ⟨State.constructed_memoryOk cfg code, State.constructed_routed cfg code,
      State.constructed_faultMatches cfg code⟩,
    State.constructed_memoryOk _ _, State.constructed_routed _ _, State.constructed_faultMatches _ _⟩

end Sys2Proof.Machine
end

section
/-! The rules about every computation and about every tick: O23, O36 to O41, O44. -/

namespace Sys2Proof.Machine

/-- Settles O23, from everything a computation can do (`ExecEffect`). -/
theorem computingLeavesTheRestUnchanged : Obligations.ComputingLeavesTheRestUnchanged := by
  intro i s
  obtain ⟨t, h⟩ := exec_next i s
  have e := exec_effect h
  have k := e.keeps
  have hwb : t.wb = s.wb := by cases e <;> simp
  refine ⟨t, h, k.x, k.sb, k.rq, k.clock, k.retired, hwb, k.f, k.code, k.cfg, fun hb => ?_, fun hz => ?_, e.unit, fun hn => ?_,
    fun ea hs a ha => ?_, ?_⟩
  · exact ⟨(e.others hb).pc, (e.others hb).redirect, (e.others hb).fetchEn, (e.others hb).d⟩
  · exact e.z.resolve_right (by simp [hz])
  · exact e.dmem.resolve_right fun ⟨ea, v, hs, _⟩ => by rw [hn] at hs; cases hs
  · rcases e.dmem with hm | ⟨ea', v, hs', hv, hm⟩
    · rw [hm]
    · cases hs.symm.trans hs'
      obtain ⟨h0, -⟩ := (validAddress_iff _ _).mp hv
      rw [hm, Memory.read_write_other _ _ (by omega)]
  · cases e with
    | result _ _ _ _ _ _ => exact .inl (by simp)
    | redirect _ _ => exact .inl ⟨rfl, rfl⟩
    | fault _ _ _ => exact .inr (by simp)

/-- Settles O36: the stages keep table, parameters and the clock that the tick advanced. -/
theorem everyTickAnswersAndCounts : Obligations.EveryTickAnswersAndCounts := by
  intro s
  obtain ⟨t, h⟩ := step_next s
  by_cases hs : s.status = .running
  · obtain ⟨a, b, c, d, e, st⟩ := step_stages hs h
    have k := st.keeps
    have w := st.writebackKeeps
    exact ⟨t, h, k.code.trans w.code, k.cfg.trans w.cfg, fun _ => k.clock.trans w.clock, fun hn => absurd hs hn⟩
  · cases (tick_of_not_running hs).symm.trans h
    exact ⟨_, h, rfl, rfl, fun hr => absurd hr hs, fun _ => rfl⟩

/-- A step that changes anything is a tick. -/
theorem running_of_step_ne {s t : State} (h : step s = .next t) (hne : t ≠ s) : s.status = .running := by
  by_contra hs
  cases (tick_of_not_running hs).symm.trans h
  exact hne rfl

/-- A retirement writes its destination with its result, and no other register. -/
theorem State.commitResult_x_get (s : State) (r : Reg) :
    s.commitResult.x[r] = s.x[r] ∨ (destOf s.wb.instr = some r ∧ s.commitResult.x[r] = s.wb.res) := by
  rw [State.commitResult_x]
  cases hd : destOf s.wb.instr with
  | none => exact .inl rfl
  | some rd =>
    by_cases hr : rd = r
    · subst hr; simp
    · exact .inl (by simp [Fin.val_inj, hr])

/-- Settles O37: only Writeback writes registers, and the later stages keep the count of retirements. -/
theorem registersChangeOnlyByRetirement : Obligations.RegistersChangeOnlyByRetirement := by
  intro s t r h hne
  obtain ⟨a, b, c, d, e, st⟩ := step_stages (running_of_step_ne h fun e => hne (by rw [e])) h
  rw [st.keeps.x] at hne ⊢
  rw [st.keeps.retired]
  cases writeback_tick st.writeback with
  | idle _ => exact absurd rfl hne
  | fault => exact absurd rfl hne
  | retire occ _ =>
    obtain ⟨hd, hx⟩ := (State.commitResult_x_get _ r).resolve_left hne
    exact ⟨occ, hd, hx, rfl⟩

/-- Settles O38: the pc is Fetch's, and after a taken branch Fetch is suppressed. -/
theorem pcChangesOnlyByFetchOrBranch : Obligations.PcChangesOnlyByFetchOrBranch := by
  intro s t hrouted h
  by_cases hs : s.status = .running
  case neg => cases (tick_of_not_running hs).symm.trans h; exact .inl rfl
  obtain ⟨a, b, c, d, e, st⟩ := step_stages hs h
  have before := st.beforeInteger hrouted
  have dk := decode_keeps st.decode
  have fk := (fetch_keeps st.fetch).pc
  have ik := integer_pc st.integer
  rw [dk.pc, dk.redirect] at fk
  rw [KeptOrRedirected, before.int, before.pc] at ik
  rcases ik with ⟨hd, -⟩ | ⟨ho, hr, imm, hi, hd⟩
  · rw [hd] at fk
    exact fk.imp_right fun f => .inl f.2
  · have ht : t.pc = d.pc := fk.resolve_right fun f => by rw [hr] at f; cases f.1
    exact .inr (.inr ⟨ho, imm, hi, ht.trans hd⟩)

/-- Reserving a destination sets its bit and no other. -/
theorem State.reserve_sb_get (s : State) (i : Instr) (r : Reg) :
    (s.reserve i).sb[r] = true ↔ s.sb[r] = true ∨ destOf i = some r := by
  rw [State.reserve_sb]
  cases hd : destOf i with
  | none => simp
  | some rd => by_cases hr : rd = r <;> simp [Fin.val_inj, hr]

/-- A retirement releases its destination's bit and no other. -/
theorem State.commitResult_sb_get (s : State) (r : Reg) :
    s.commitResult.sb[r] = true ↔ s.sb[r] = true ∧ destOf s.wb.instr ≠ some r := by
  rw [State.commitResult_sb]
  cases hd : destOf s.wb.instr with
  | none => simp
  | some rd => by_cases hr : rd = r <;> simp [Fin.val_inj, hr]

/-- What Writeback does to queue, count and scoreboard. -/
theorem WritebackTick.queue {s t : State} (h : WritebackTick s t) :
    (t.rq = s.rq ∧ t.retired = s.retired ∧ t.sb = s.sb) ∨
      (s.wb.occ = true ∧ s.rq = s.wb.seq :: t.rq ∧ t.retired = s.retired + 1#64 ∧ t.sb = s.commitResult.sb) := by
  cases h with
  | idle _ => exact .inl ⟨rfl, rfl, rfl⟩
  | fault => exact .inl ⟨rfl, rfl, rfl⟩
  | retire occ head =>
    refine .inr ⟨occ, ?_, rfl, rfl⟩
    cases hq : s.rq with
    | nil => simp [hq] at head
    | cons k q => simp [hq] at head; simp [afterRetire, hq, head]

/-- Writeback sets no bit, and a bit it clears is its destination's. -/
theorem WritebackTick.sb {s t : State} (h : WritebackTick s t) (r : Reg) :
    (t.sb[r] = true → s.sb[r] = true) ∧
      (s.sb[r] = true → t.sb[r] = true ∨ (s.wb.occ = true ∧ destOf s.wb.instr = some r ∧ t.retired = s.retired + 1#64)) := by
  rcases h.queue with ⟨-, -, e⟩ | ⟨occ, -, hret, e⟩ <;> rw [e]
  · exact ⟨id, .inl⟩
  · rw [State.commitResult_sb_get]
    refine ⟨And.left, fun hb => ?_⟩
    by_cases hd : destOf s.wb.instr = some r
    · exact .inr ⟨occ, hd, hret⟩
    · exact .inl ⟨hb, hd⟩

/-- Decode clears no bit, and a bit it sets is the destination of the instruction it appends to the queue. -/
theorem Enqueued.sb {s t : State} (h : Enqueued s t) (r : Reg) :
    (s.sb[r] = true → t.sb[r] = true) ∧
      (t.sb[r] = true → s.sb[r] = true ∨
        (s.d.occ = true ∧ s.d.invalid = false ∧ destOf s.d.instr = some r ∧ t.rq.getLast? = some s.d.seq)) := by
  rcases h with ⟨-, e⟩ | ⟨o, v, hq, e⟩ <;> rw [e]
  · exact ⟨id, .inl⟩
  · rw [State.reserve_sb_get, hq]
    exact ⟨.inl, fun h => h.imp_right fun hd => ⟨o, v, hd, by simp⟩⟩

/-- Settles O39: only Writeback releases a bit, and only Decode, with the instruction it had all along, sets one. -/
theorem scoreboardChangesOnlyByDispatchAndRetirement : Obligations.ScoreboardChangesOnlyByDispatchAndRetirement := by
  intro s t r h
  suffices key : (t.sb[r] = true → s.sb[r] = true ∨
        (s.d.occ = true ∧ s.d.invalid = false ∧ destOf s.d.instr = some r ∧ t.rq.getLast? = some s.d.seq)) ∧
      (s.sb[r] = true → t.sb[r] = true ∨ (s.wb.occ = true ∧ destOf s.wb.instr = some r ∧ t.retired = s.retired + 1#64)) from
    ⟨fun h0 h1 => (key.1 h1).resolve_left (by simp [h0]), fun h1 h0 => (key.2 h1).resolve_left (by simp [h0])⟩
  by_cases hs : s.status = .running
  case neg => cases (tick_of_not_running hs).symm.trans h; exact ⟨.inl, .inl⟩
  obtain ⟨a, b, c, d, e, st⟩ := step_stages hs h
  obtain ⟨noSet, clear⟩ := (writeback_tick st.writeback).sb r
  obtain ⟨noClear, set⟩ := (decode_enqueued st.decode).sb r
  rw [st.unitsKeep.sb] at noClear set
  rw [st.keeps.retired, (fetch_keeps st.fetch).sb, (fetch_keeps st.fetch).rq]
  refine ⟨fun ht => (set ht).imp noSet fun ⟨o, hd⟩ => ?_, fun hb => (clear hb).imp_left noClear⟩
  have hdd : d.d = s.d := (st.unitsKeep.decode o).trans st.writebackKeeps.d
  rw [hdd] at o hd
  exact ⟨o, hd⟩

/-- Settles O40: Writeback pops the head, the units keep the queue, Decode appends its instruction. -/
theorem queuePopsAtRetirementAndGrowsAtDispatch : Obligations.QueuePopsAtRetirementAndGrowsAtDispatch := by
  intro s t hs h
  obtain ⟨a, b, c, d, e, st⟩ := step_stages hs h
  have u := st.unitsKeep
  refine ⟨a.rq, ?_, ?_⟩
  · rw [st.keeps.retired]
    exact (writeback_tick st.writeback).queue.imp (fun w => ⟨w.1, w.2.1⟩) fun w => ⟨w.1, w.2.1, w.2.2.1⟩
  · rw [(fetch_keeps st.fetch).rq, ← u.rq]
    rcases decode_enqueued st.decode with ⟨q, -⟩ | ⟨o, v, q, -⟩
    · exact .inl q
    · have hd : d.d = s.d := (u.decode o).trans st.writebackKeeps.d
      rw [hd] at o v q
      exact .inr ⟨o, v, q⟩

/-- Settles O41: Z changes in the Multiplier or the Integer unit only, and neither latch changes before its unit's turn. -/
theorem zeroFlagChangesOnlyByItsWriters : Obligations.ZeroFlagChangesOnlyByItsWriters := by
  intro s t hrouted h hne
  obtain ⟨a, b, c, d, e, st⟩ := step_stages (running_of_step_ne h fun e => hne (by rw [e])) h
  have before := st.beforeInteger hrouted
  have w := st.writebackKeeps
  have hrq : c.rq = a.rq := (multiply_keeps st.multiply).rq.trans (loadStore_keeps st.loadStore).rq
  rw [(fetch_keeps st.fetch).z, (decode_keeps st.decode).z] at hne
  rcases integer_z st.integer with hi | hi
  · rcases multiply_z st.multiply with hm | ⟨o, busy, last⟩
    · exact absurd (hi.trans (hm.trans ((loadStore_z st.loadStore (w.routed hrouted)).trans w.z))) hne
    · rw [before.mul] at o busy last
      exact .inr ⟨o, busy, by simpa [Config.mulLat] using last⟩
  · rw [before.int, hrq] at hi
    obtain ⟨o, hz, head⟩ := hi
    refine .inl ⟨o, hz, ?_⟩
    rcases (writeback_tick st.writeback).queue with ⟨e, -⟩ | ⟨ow, e, -⟩
    · exact .inl (by rw [← head, e])
    · exact .inr ⟨ow, by rw [← head]; exact congrArg (fun q : List Nat => q.tail.head?) e⟩

/-- Writeback keeps the match of fault record and status. -/
theorem WritebackTick.faultMatches {s t : State} (h : WritebackTick s t) (hr : s.status = .running) (hs : s.faultMatches) :
    t.faultMatches := by
  unfold State.faultMatches at *
  cases h with
  | idle _ => exact hs
  | fault => simp
  | retire _ _ =>
    have hf : s.fault.isSome = false := by simpa [hr] using hs
    by_cases hi : s.wb.instr = .halt <;> simp [afterRetire, hr, hf, hi]

/-- Settles O44. -/
theorem everyStepKeepsFaultRecordAndRouting : Obligations.EveryStepKeepsFaultRecordAndRouting := by
  intro s t h
  by_cases hs : s.status = .running
  · obtain ⟨a, b, c, d, e, st⟩ := step_stages hs h
    exact ⟨fun hm => st.keeps.faultMatches ((writeback_tick st.writeback).faultMatches hs hm), fun hm => st.routed hm⟩
  · cases (tick_of_not_running hs).symm.trans h
    exact ⟨id, id⟩

end Sys2Proof.Machine
end

section
/-! PROOF SUPPORT for the pipeline invariant (10_state R43). The invariant falls into parts that a stage keeps for different reasons:
the instructions in flight with queue and scoreboard, the units, the Decode latch, and where a HALT stands. -/

namespace Sys2Proof.Machine

/-! ### The parts of the invariant -/

/-- The instructions in flight agree with queue, scoreboard and table (10_state R43 points 2, 3 and 6). -/
structure State.FlightOk (s : State) : Prop where
  queue : ∃ hs, s.dispatchOrder hs
  busy : ∀ r : Reg, s.sb[r] = true ↔ ∃ h, s.willWrite h r
  oneWriter : ∀ (r : Reg) (h k : Holder), s.willWrite h r → s.willWrite k r → h = k
  heldFromTable : ∀ h, s.inFlight h → s.fromTable (s.held h)

/-- How far a unit is with the instruction it holds (10_state R36). -/
def UnitRunning : UnitId → Latch → Prop
  | .int, l => l.st = .busy
  | .mul, l => unitProgress l Config.mulLat
  | .ls, l => unitProgress l Config.lsLat

/-- A unit holds instructions routed to it, and is FREE when it is empty (10_state R36, 40_pipeline R141). -/
structure UnitOk (u : UnitId) (l : Latch) : Prop where
  holds : l.occ = true → unitOf l.instr = u ∧ UnitRunning u l
  free : l.occ = false → l.st = .free

/-- What the Decode latch holds (10_state R43 point 6, 40_pipeline R129, R130, R135). -/
structure State.DecodeOk (s : State) : Prop where
  fromTable : s.d.occ = true → s.d.invalid = false → s.fromTable s.d.toLatch
  awaitClear : s.d.occ = true → s.d.invalid = false → s.d.phase = .awaitUnit → s.hazard s.d.instr = false
  stops : s.d.occ = true → (s.d.invalid = true ∨ s.d.instr = .halt) → s.fetchEn = false

/-- Where a HALT may stand, and what has disabled fetching (40_pipeline R186, R187). -/
structure State.HaltOk (s : State) : Prop where
  inInt : s.int.occ = true → s.int.instr = .halt → s.fetchEn = false ∧ s.d.occ = false
  inWb : s.wb.occ = true → s.wb.instr = .halt →
    s.fetchEn = false ∧ s.d.occ = false ∧ s.int.occ = false ∧ s.mul.occ = false ∧ s.ls.occ = false
  cause : s.fetchEn = false → (s.d.occ = true ∧ (s.d.invalid = true ∨ s.d.instr = .halt))
    ∨ (s.int.occ = true ∧ s.int.instr = .halt) ∨ (s.wb.occ = true ∧ s.wb.instr = .halt)

namespace State.Inv
variable {s : State}

theorem flightOk (h : s.Inv) : s.FlightOk := ⟨h.queue, h.busy, h.oneWriter, h.heldFromTable⟩

theorem decodeOk (h : s.Inv) : s.DecodeOk := ⟨h.decodeFromTable, h.awaitClear, h.decodeStops⟩

theorem unitOk (h : s.Inv) (u : UnitId) : UnitOk u (s.unit u) := by
  obtain ⟨fi, fm, fl⟩ := h.emptyFree
  cases u
  · exact ⟨h.intUnit, fi⟩
  · exact ⟨h.mulUnit, fm⟩
  · exact ⟨h.lsUnit, fl⟩

theorem of_parts (running : s.status = .running) (noFault : s.fault = none) (params : s.cfg.wellFormed = true)
    (memory : s.memoryOk) (noRedirect : s.redirect = false) (flight : s.FlightOk) (decode : s.DecodeOk) (halt : s.HaltOk)
    (units : ∀ u, UnitOk u (s.unit u)) : s.Inv where
  running := running
  noFault := noFault
  params := params
  memory := memory
  noRedirect := noRedirect
  queue := flight.queue
  busy := flight.busy
  oneWriter := flight.oneWriter
  heldFromTable := flight.heldFromTable
  decodeFromTable := decode.fromTable
  awaitClear := decode.awaitClear
  intUnit := (units .int).holds
  mulUnit := (units .mul).holds
  lsUnit := (units .ls).holds
  emptyFree := ⟨(units .int).free, (units .mul).free, (units .ls).free⟩
  decodeStops := decode.stops
  haltInInt := halt.inInt
  haltInWb := halt.inWb
  stopHasCause := halt.cause

end State.Inv

/-! ### Instructions that stay, or move between latches -/

/-- The latches are both empty or hold the same instruction of the same slot. -/
def SameInstr (l m : Latch) : Prop :=
  l.occ = m.occ ∧ (m.occ = true → l.instr = m.instr ∧ l.seq = m.seq ∧ l.pc = m.pc)

theorem SameInstr.refl (l : Latch) : SameInstr l l := ⟨rfl, fun _ => ⟨rfl, rfl, rfl⟩⟩

theorem SameInstr.of_empty {l m : Latch} (hl : l.occ = false) (hm : m.occ = false) : SameInstr l m :=
  ⟨hl.trans hm.symm, fun h => by rw [hm] at h; cases h⟩

/-- The holder that a unit's latch is. -/
def UnitId.holder : UnitId → Holder
  | .int => .int
  | .mul => .mul
  | .ls => .ls

@[simp] theorem State.held_holder (s : State) (u : UnitId) : s.held u.holder = s.unit u := by cases u <;> rfl

@[simp] theorem State.inFlight_holder (s : State) (u : UnitId) : s.inFlight u.holder ↔ (s.unit u).occ = true := by
  rw [State.inFlight, State.held_holder]

theorem UnitId.holder_ne_wb (u : UnitId) : u.holder ≠ .wb := by cases u <;> decide

theorem UnitId.holder_injective {u v : UnitId} (h : u.holder = v.holder) : u = v := by
  cases u <;> cases v
  case int.int | mul.mul | ls.ls => rfl
  all_goals cases h

/-- A holder is Writeback or a unit. -/
theorem Holder.wb_or_unit (h : Holder) : h = .wb ∨ ∃ u : UnitId, h = u.holder := by
  cases h
  · exact .inl rfl
  · exact .inr ⟨.int, rfl⟩
  · exact .inr ⟨.mul, rfl⟩
  · exact .inr ⟨.ls, rfl⟩

theorem sameInstr_of_units {s t : State} (wb : SameInstr t.wb s.wb) (units : ∀ u, SameInstr (t.unit u) (s.unit u)) (h : Holder) :
    SameInstr (t.held h) (s.held h) := by
  rcases h.wb_or_unit with rfl | ⟨u, rfl⟩
  · exact wb
  · simpa using units u

/-- `t` holds the instructions of `s`, each in the latch that `σ` names in `s`, with queue, scoreboard and table unchanged. -/
structure Relabelled (σ : Equiv.Perm Holder) (s t : State) : Prop where
  cfg : t.cfg = s.cfg
  code : t.code = s.code
  rq : t.rq = s.rq
  sb : t.sb = s.sb
  held : ∀ h, SameInstr (t.held h) (s.held (σ h))

namespace Relabelled
variable {σ : Equiv.Perm Holder} {s t : State}

theorem inFlight (h : Relabelled σ s t) (k : Holder) : t.inFlight k ↔ s.inFlight (σ k) := by
  unfold State.inFlight; rw [(h.held k).1]

theorem willWrite (h : Relabelled σ s t) (k : Holder) (r : Reg) : t.willWrite k r ↔ s.willWrite (σ k) r := by
  unfold State.willWrite
  rw [h.inFlight k]
  exact and_congr_right fun o => by rw [((h.held k).2 o).1]

theorem fromTable (h : Relabelled σ s t) {k : Holder} (o : s.inFlight (σ k)) (f : s.fromTable (s.held (σ k))) :
    t.fromTable (t.held k) := by
  obtain ⟨hi, hq, hp⟩ := (h.held k).2 o
  unfold State.fromTable
  rw [h.code, h.cfg, hi, hq, hp]
  exact f

/-- The instructions in flight stay in order: only what is said of Writeback and of a HALT depends on the latch. -/
theorem flightOk (h : Relabelled σ s t) (f : s.FlightOk) {hs : List Holder} (o : s.dispatchOrder hs)
    (wbFirst : t.wb.occ = true → (hs.map σ.symm).head? = some .wb)
    (haltLast : t.int.occ = true → t.int.instr = .halt → (hs.map σ.symm).getLast? = some .int) : t.FlightOk where
  queue := by
    obtain ⟨nodup, mem, rq, -, -⟩ := o
    refine ⟨hs.map σ.symm, nodup.map σ.symm.injective, fun k => ?_, ?_, wbFirst, haltLast⟩
    · rw [h.inFlight, ← mem, List.mem_map]
      exact ⟨fun ⟨j, hj, e⟩ => by rw [← e]; simpa using hj, fun hk => ⟨σ k, hk, by simp⟩⟩
    · rw [h.rq, rq, List.map_map]
      refine List.map_congr_left fun j hj => ?_
      have hj' : s.inFlight (σ (σ.symm j)) := by simpa using (mem j).mp hj
      simpa using ((h.held (σ.symm j)).2 hj').2.1.symm
  busy r := by
    rw [h.sb, f.busy]
    exact ⟨fun ⟨k, w⟩ => ⟨σ.symm k, (h.willWrite _ r).mpr (by simpa using w)⟩,
      fun ⟨k, w⟩ => ⟨σ k, (h.willWrite k r).mp w⟩⟩
  oneWriter r j k wj wk := σ.injective (f.oneWriter r _ _ ((h.willWrite j r).mp wj) ((h.willWrite k r).mp wk))
  heldFromTable k o := h.fromTable ((h.inFlight k).mp o) (f.heldFromTable _ ((h.inFlight k).mp o))

end Relabelled

/-! ### Updates that keep every instruction where it is -/

/-- Control state that the units share: everything the invariant speaks of besides the latches in flight and the memory. -/
structure SameControl (s t : State) : Prop where
  status : t.status = s.status
  fault : t.fault = s.fault
  cfg : t.cfg = s.cfg
  code : t.code = s.code
  rq : t.rq = s.rq
  sb : t.sb = s.sb
  redirect : t.redirect = s.redirect
  fetchEn : t.fetchEn = s.fetchEn
  d : t.d = s.d

theorem State.hazard_congr {s t : State} (h : t.sb = s.sb) (i : Instr) : t.hazard i = s.hazard i := by
  unfold State.hazard; rw [h]

theorem SameControl.decodeOk {s t : State} (k : SameControl s t) (h : s.DecodeOk) : t.DecodeOk := by
  obtain ⟨tab, clear, stops⟩ := h
  constructor
  · unfold State.fromTable; rw [k.d, k.code, k.cfg]; exact tab
  · rw [k.d, State.hazard_congr k.sb]; exact clear
  · rw [k.d, k.fetchEn]; exact stops

/-- A state with the same control and the same instructions in the same latches meets the invariant when its memory and its units'
progress do. -/
theorem State.Inv.transport {s t : State} (h : s.Inv) (k : SameControl s t) (held : ∀ j, SameInstr (t.held j) (s.held j))
    (memory : t.memoryOk) (units : ∀ u, UnitOk u (t.unit u)) : t.Inv := by
  have rel : Relabelled (Equiv.refl Holder) s t := ⟨k.cfg, k.code, k.rq, k.sb, held⟩
  have isHalt : ∀ j, ((t.held j).occ = true ∧ (t.held j).instr = .halt ↔ (s.held j).occ = true ∧ (s.held j).instr = .halt) := by
    intro j
    rw [(held j).1]
    exact and_congr_right fun o => by rw [((held j).2 o).1]
  obtain ⟨hs, order⟩ := h.queue
  refine .of_parts (k.status.trans h.running) (k.fault.trans h.noFault) (by rw [k.cfg]; exact h.params) memory
    (k.redirect.trans h.noRedirect) (rel.flightOk h.flightOk order ?_ ?_) (k.decodeOk h.decodeOk) ⟨?_, ?_, ?_⟩ units
  · intro o
    simpa using order.2.2.2.1 ((held .wb).1.symm.trans o)
  · intro o i
    obtain ⟨o', i'⟩ := (isHalt .int).mp ⟨o, i⟩
    simpa using order.2.2.2.2 o' i'
  · intro o i
    obtain ⟨o', i'⟩ := (isHalt .int).mp ⟨o, i⟩
    rw [k.fetchEn, k.d]
    exact h.haltInInt o' i'
  · intro o i
    obtain ⟨o', i'⟩ := (isHalt .wb).mp ⟨o, i⟩
    have oi : t.int.occ = s.int.occ := (held .int).1
    have om : t.mul.occ = s.mul.occ := (held .mul).1
    have ol : t.ls.occ = s.ls.occ := (held .ls).1
    rw [k.fetchEn, k.d, oi, om, ol]
    exact h.haltInWb o' i'
  · rw [k.fetchEn, k.d]
    exact fun e => (h.stopHasCause e).imp_right (Or.imp (isHalt .int).mpr (isHalt .wb).mpr)

/-- The invariant does not read the clock. -/
theorem State.Inv.withClock {s : State} (h : s.Inv) (n : Counter) : ({ s with clock := n } : State).Inv :=
  h.transport ⟨rfl, rfl, rfl, rfl, rfl, rfl, rfl, rfl, rfl⟩ (fun j => by cases j <;> exact .refl _) h.memory
    fun u => by cases u <;> exact h.unitOk _

end Sys2Proof.Machine
end

section
/-! PROOF SUPPORT. Each event of a tick keeps the pipeline invariant: retirement, computation, hand-off, redirect, operand read,
dispatch and fetch. -/

namespace Sys2Proof.Machine

/-! ### The data memory -/

/-- A write to a cell that exists keeps the memory canonical and in range. -/
theorem State.memoryOk_write {s : State} (h : s.memoryOk) {a : Int} (ha : validAddress s.cfg a = true) (v : Word) :
    ({ s with dmem := Memory.write s.dmem a.toNat v } : State).memoryOk := by
  obtain ⟨h0, hlt⟩ := (validAddress_iff _ _).mp ha
  refine ⟨Memory.write_wf h.1 _ _, fun p hp => ?_⟩
  rcases Memory.mem_write hp with ⟨rfl, -⟩ | hp
  · show a.toNat < s.cfg.dmemSize
    omega
  · exact h.2 p hp

theorem State.memoryOk_congr {s t : State} (hc : t.cfg = s.cfg) (hm : t.dmem = s.dmem) : t.memoryOk ↔ s.memoryOk := by
  unfold State.memoryOk; rw [hc, hm]

/-- A computation keeps the memory canonical and in range (20_memory R64). -/
theorem ExecEffect.memoryOk {i : Instr} {s t : State} (h : ExecEffect i s t) (hs : s.memoryOk) : t.memoryOk := by
  rcases h.dmem with e | ⟨a, v, -, hv, e⟩
  · exact (State.memoryOk_congr h.keeps.cfg e).mpr hs
  · exact (State.memoryOk_congr (s := { s with dmem := Memory.write s.dmem a.toNat v }) h.keeps.cfg e).mpr
      (State.memoryOk_write hs hv v)

/-! ### Retirement -/

/-- In dispatch order the Writeback latch is first, so a retirement takes the first (40_pipeline R180). -/
theorem State.dispatchOrder.wb_first {s : State} {hs : List Holder} (o : s.dispatchOrder hs) (hw : s.wb.occ = true) :
    ∃ rest, hs = .wb :: rest ∧ .wb ∉ rest := by
  obtain ⟨nodup, -, -, first, -⟩ := o
  cases hs with
  | nil => exact absurd (first hw) (by simp)
  | cons k rest =>
    obtain rfl : k = .wb := by simpa using first hw
    exact ⟨rest, rfl, (List.nodup_cons.mp nodup).1⟩

theorem afterRetire_held {s : State} {j : Holder} (hj : j ≠ .wb) : (afterRetire s).held j = s.held j := by
  cases j with
  | wb => exact absurd rfl hj
  | _ => rfl

/-- What is in flight after a retirement was in flight before it, in a latch that is not Writeback. -/
theorem afterRetire_inFlight {s : State} {j : Holder} : (afterRetire s).inFlight j ↔ j ≠ .wb ∧ s.inFlight j := by
  by_cases hj : j = .wb
  · subst hj; simp [afterRetire]
  · simp [State.inFlight, afterRetire_held hj, hj]

theorem afterRetire_willWrite {s : State} {j : Holder} {r : Reg} :
    (afterRetire s).willWrite j r ↔ j ≠ .wb ∧ s.willWrite j r := by
  by_cases hj : j = .wb
  · subst hj; simp [State.willWrite, afterRetire]
  · simp [State.willWrite, State.inFlight, afterRetire_held hj, hj]

theorem afterRetire_flightOk {s : State} (f : s.FlightOk) (hw : s.wb.occ = true) : (afterRetire s).FlightOk where
  queue := by
    obtain ⟨hs, o⟩ := f.queue
    obtain ⟨rest, rfl, hnot⟩ := o.wb_first hw
    obtain ⟨nodup, mem, rq, -, last⟩ := o
    refine ⟨rest, (List.nodup_cons.mp nodup).2, fun j => ?_, ?_, nofun, fun oi hi => ?_⟩
    · rw [afterRetire_inFlight, ← mem, List.mem_cons]
      exact ⟨fun hj => ⟨fun e => hnot (e ▸ hj), .inr hj⟩, fun ⟨hj, h⟩ => h.resolve_left hj⟩
    · have hrq : (afterRetire s).rq = rest.map (fun h => (s.held h).seq) := by simp [afterRetire, rq]
      rw [hrq]
      exact List.map_congr_left fun j hj => by rw [afterRetire_held fun e => hnot (e ▸ hj)]
    · have h := last oi hi
      cases rest with
      | nil => simp at h
      | cons k ks => simpa [List.getLast?_cons_cons] using h
  busy r := by
    rw [show (afterRetire s).sb = s.commitResult.sb from rfl, State.commitResult_sb_get, f.busy]
    simp only [afterRetire_willWrite]
    constructor
    · rintro ⟨⟨j, w⟩, hd⟩
      exact ⟨j, fun e => hd (by subst e; exact w.2), w⟩
    · rintro ⟨j, hj, w⟩
      exact ⟨⟨j, w⟩, fun hd => hj (f.oneWriter r j .wb w ⟨hw, hd⟩)⟩
  oneWriter r j k wj wk := f.oneWriter r j k (afterRetire_willWrite.mp wj).2 (afterRetire_willWrite.mp wk).2
  heldFromTable j o := by
    obtain ⟨hj, o⟩ := afterRetire_inFlight.mp o
    have h := f.heldFromTable j o
    rw [← afterRetire_held hj] at h
    exact h

/-- A bit that is released brings no hazard. -/
theorem State.hazard_mono {s t : State} (h : ∀ r : Reg, t.sb[r] = true → s.sb[r] = true) {i : Instr} (hs : s.hazard i = false) :
    t.hazard i = false := by
  unfold State.hazard at *
  rw [List.any_eq_false] at *
  exact fun r hr ht => hs r hr (h r ht)

/-- Retirement keeps the invariant when the core is still RUNNING after it. -/
theorem State.Inv.retire {s : State} (h : s.Inv) (hw : s.wb.occ = true) (running : (afterRetire s).status = .running) :
    (afterRetire s).Inv := by
  have notHalt : s.wb.instr ≠ .halt := fun e => by simp [afterRetire, e] at running
  refine .of_parts running h.noFault h.params h.memory h.noRedirect (afterRetire_flightOk h.flightOk hw)
    ⟨h.decodeFromTable, fun o v p => ?_, h.decodeStops⟩ ⟨h.haltInInt, nofun, fun e => ?_⟩ fun u => ?_
  · exact State.hazard_mono (fun r hr => ((State.commitResult_sb_get s r).mp hr).1) (h.awaitClear o v p)
  · exact (h.stopHasCause e).imp_right fun c => .inl (c.resolve_right fun c => notHalt c.2)
  · cases u <;> exact h.unitOk _

/-! ### Computation in a unit -/

/-- A computation writes only the result and the address of its own unit's latch. -/
theorem ExecEffect.own {i : Instr} {s t : State} (h : ExecEffect i s t) :
    ∃ r e, t.unit (unitOf i) = { s.unit (unitOf i) with res := r, ea := e } := by
  cases h with
  | result r ea b m _ _ => exact ⟨r, ea, by simp⟩
  | redirect _ _ => exact ⟨_, _, by rw [State.redirectTo_unit]⟩
  | fault ea k a => exact ⟨_, ea, by rw [State.raise_unit, State.setUnit_unit]⟩

theorem ExecEffect.wb {i : Instr} {s t : State} (h : ExecEffect i s t) : t.wb = s.wb := by cases h <;> simp

/-- What leaves the Decode latch and the fetch state alone and ends no tick keeps the control state. -/
theorem SameControl.of_frames {s t : State} {u : UnitId} (k : UnitsKeep s t) (o : OtherUnitsKept u s t)
    (hs : s.status = .running) (ht : t.status = .running) : SameControl s t := by
  have hf : t.fault = s.fault := by
    rcases k.fault with ⟨-, e⟩ | ⟨e, -⟩
    · exact e
    · rw [ht] at e; cases e
  exact ⟨ht.trans hs.symm, hf, k.cfg, k.code, k.rq, k.sb, o.redirect, o.fetchEn, o.d⟩

theorem SameControl.trans {s t v : State} (h : SameControl s t) (g : SameControl t v) : SameControl s v :=
  ⟨g.status.trans h.status, g.fault.trans h.fault, g.cfg.trans h.cfg, g.code.trans h.code, g.rq.trans h.rq, g.sb.trans h.sb,
    g.redirect.trans h.redirect, g.fetchEn.trans h.fetchEn, g.d.trans h.d⟩

theorem SameControl.setUnit (s : State) (u : UnitId) (l : Latch) : SameControl s (s.setUnit u l) :=
  ⟨by simp, by simp, by simp, by simp, by simp, by simp, by simp, by simp, by simp⟩

/-- Progress of a unit with its instruction keeps the invariant: same control, same Writeback, same other units. -/
theorem State.Inv.progress {s t : State} {u : UnitId} {l : Latch} (h : s.Inv) (k : SameControl s t) (wb : t.wb = s.wb)
    (others : ∀ v, v ≠ u → t.unit v = s.unit v) (own : t.unit u = l) (memory : t.memoryOk) (same : SameInstr l (s.unit u))
    (ok : UnitOk u l) : t.Inv := by
  refine h.transport k (sameInstr_of_units (by rw [wb]; exact .refl _) fun v => ?_) memory fun v => ?_ <;> by_cases hv : v = u
  · subst hv; rw [own]; exact same
  · rw [others v hv]; exact .refl _
  · subst hv; rw [own]; exact ok
  · rw [others v hv]; exact h.unitOk v

/-! ### Hand-off -/

/-- Two units never hold the same slot: its instruction is routed to one of them (30_encoding R93, 40_pipeline R141). -/
theorem State.Inv.unit_eq_of_seq {s : State} (h : s.Inv) {u v : UnitId} (hu : (s.unit u).occ = true) (hv : (s.unit v).occ = true)
    (e : (s.unit u).seq = (s.unit v).seq) : u = v := by
  have fu : s.code[(s.unit u).seq]? = some (s.unit u).instr := by
    simpa using (h.heldFromTable u.holder (by simpa using hu)).1
  have fv : s.code[(s.unit v).seq]? = some (s.unit v).instr := by
    simpa using (h.heldFromTable v.holder (by simpa using hv)).1
  rw [e, fv, Option.some.injEq] at fu
  rw [← ((h.unitOk u).holds hu).1, ← ((h.unitOk v).holds hv).1, fu]

/-- With Writeback empty, the unit whose instruction's number is at the queue head holds the oldest instruction (40_pipeline R145). -/
theorem State.Inv.head_unit {s : State} (h : s.Inv) (room : s.wb.occ = false) {u : UnitId} (occ : (s.unit u).occ = true)
    (head : s.rq.head? = some (s.unit u).seq) : ∃ rest, s.dispatchOrder (u.holder :: rest) := by
  obtain ⟨hs, o⟩ := h.queue
  cases hs with
  | nil => rw [o.2.2.1] at head; cases head
  | cons j rest =>
    have hj : s.inFlight j := (o.2.1 j).mp (by simp)
    rcases j.wb_or_unit with rfl | ⟨v, rfl⟩
    · exact absurd (room.symm.trans hj) (by decide)
    · have e : (s.unit v).seq = (s.unit u).seq := by
        rw [o.2.2.1] at head
        simpa using head
      obtain rfl := h.unit_eq_of_seq (by simpa using hj) occ e
      exact ⟨rest, o⟩

theorem State.handedOff_control (s : State) (u : UnitId) : SameControl s (s.handedOff u) :=
  ⟨by simp [State.handedOff], by simp [State.handedOff], by simp [State.handedOff], by simp [State.handedOff],
    by simp [State.handedOff], by simp [State.handedOff], by simp [State.handedOff], by simp [State.handedOff],
    by simp [State.handedOff]⟩

@[simp] theorem State.handedOff_wb (s : State) (u : UnitId) : (s.handedOff u).wb = s.unit u := by simp [State.handedOff]

@[simp] theorem State.handedOff_unit (s : State) (u : UnitId) :
    (s.handedOff u).unit u = { s.unit u with occ := false, st := .free } := by simp [State.handedOff]

theorem State.handedOff_unit_of_ne (s : State) {u v : UnitId} (h : v ≠ u) : (s.handedOff u).unit v = s.unit v := by
  rw [State.handedOff, State.setUnit_unit_of_ne _ _ h]
  cases v <;> rfl

/-- The hand-off moves one instruction to Writeback. -/
theorem State.handedOff_relabelled {s : State} {u : UnitId} (room : s.wb.occ = false) :
    Relabelled (Equiv.swap .wb u.holder) s (s.handedOff u) := by
  have k := s.handedOff_control u
  refine ⟨k.cfg, k.code, k.rq, k.sb, fun j => ?_⟩
  rcases j.wb_or_unit with rfl | ⟨v, rfl⟩
  · simpa using SameInstr.refl _
  · by_cases hv : v = u
    · subst hv
      rw [Equiv.swap_apply_right]
      exact .of_empty (by simp) room
    · rw [Equiv.swap_apply_of_ne_of_ne v.holder_ne_wb fun e => hv (UnitId.holder_injective e)]
      simpa [State.handedOff_unit_of_ne s hv] using SameInstr.refl _

/-- A HALT that is the oldest instruction in flight is the only one (40_pipeline R187). -/
theorem State.dispatchOrder.alone_of_halt {s : State} {rest : List Holder} (o : s.dispatchOrder (.int :: rest))
    (occ : s.int.occ = true) (halt : s.int.instr = .halt) (j : Holder) (hj : s.inFlight j) : j = .int := by
  obtain ⟨nodup, mem, -, -, last⟩ := o
  have hl := last occ halt
  cases rest with
  | nil => simpa using (mem j).mpr hj
  | cons k ks =>
    rw [List.getLast?_cons_cons] at hl
    exact absurd (List.mem_of_getLast? hl) (List.nodup_cons.mp nodup).1

/-- The hand-off of the instruction at the queue head keeps the invariant. -/
theorem State.Inv.handOff {s : State} (h : s.Inv) {u : UnitId} (occ : (s.unit u).occ = true) (room : s.wb.occ = false)
    (head : s.rq.head? = some (s.unit u).seq) : (s.handedOff u).Inv := by
  obtain ⟨rest, order⟩ := h.head_unit room occ head
  have k := s.handedOff_control u
  have intStays : (s.handedOff u).int.occ = true → u ≠ .int ∧ (s.handedOff u).int = s.int := by
    intro o
    by_cases hu : u = .int
    · subst hu; cases o
    · exact ⟨hu, s.handedOff_unit_of_ne (Ne.symm hu)⟩
  have memory : (s.handedOff u).memoryOk := (State.memoryOk_congr k.cfg (by simp [State.handedOff])).mpr h.memory
  refine .of_parts (k.status.trans h.running) (k.fault.trans h.noFault) (by rw [k.cfg]; exact h.params) memory
    (k.redirect.trans h.noRedirect) ((s.handedOff_relabelled room).flightOk h.flightOk order ?_ ?_) (k.decodeOk h.decodeOk)
    ⟨?_, ?_, ?_⟩ ?_
  · intro _
    simp
  · intro o i
    obtain ⟨hu, e⟩ := intStays o
    rw [e] at o i
    have hl := order.2.2.2.2 o i
    have stays : Equiv.swap .wb u.holder .int = .int :=
      Equiv.swap_apply_of_ne_of_ne (by decide) fun e => hu (UnitId.holder_injective (v := .int) e.symm)
    rw [List.getLast?_map, hl, Option.map_some, Equiv.symm_swap, stays]
  · intro o i
    obtain ⟨-, e⟩ := intStays o
    rw [e] at o i
    rw [k.fetchEn, k.d]
    exact h.haltInInt o i
  · intro o i
    rw [State.handedOff_wb] at i
    obtain rfl : unitOf .halt = u := i ▸ ((h.unitOk u).holds occ).1
    have empty : ∀ v : UnitId, v ≠ .int → (s.unit v).occ = false := fun v hv => by
      by_contra hc
      have := order.alone_of_halt occ i v.holder (by simpa using hc)
      exact hv (UnitId.holder_injective (v := .int) this)
    obtain ⟨e, d⟩ := h.haltInInt occ i
    exact ⟨e, d, rfl, empty .mul (by decide), empty .ls (by decide)⟩
  · rw [k.fetchEn, k.d]
    intro e
    rcases h.stopHasCause e with c | ⟨oi, i⟩ | ⟨ow, -⟩
    · exact .inl c
    · by_cases hu : u = .int
      · subst hu; exact .inr (.inr ⟨occ, i⟩)
      · have e : (s.handedOff u).int = s.int := s.handedOff_unit_of_ne (Ne.symm hu)
        rw [e]
        exact .inr (.inl ⟨oi, i⟩)
    · rw [room] at ow; cases ow
  · intro v
    by_cases hv : v = u
    · subst hv; exact ⟨fun o => by simp at o, fun _ => by simp⟩
    · rw [s.handedOff_unit_of_ne hv]; exact h.unitOk v

/-- The Integer unit marks its instruction DONE in the tick in which it hands it off (40_pipeline R151). -/
theorem State.Inv.intHandOff {s : State} (h : s.Inv) (occ : s.int.occ = true) (room : s.wb.occ = false)
    (head : s.rq.head? = some s.int.seq) : ((s.markDone .int).handedOff .int).Inv :=
  (h.handOff (u := .int) occ room head).transport ⟨rfl, rfl, rfl, rfl, rfl, rfl, rfl, rfl, rfl⟩
    (fun j => by cases j <;> exact ⟨rfl, fun _ => ⟨rfl, rfl, rfl⟩⟩) h.memory
    fun u => by cases u <;> exact (h.handOff (u := .int) occ room head).unitOk _

/-! ### Redirect -/

/-- A redirect flushes the Decode latch and enables fetching; no HALT is in the core then (40_pipeline R170). -/
theorem State.Inv.redirect {s : State} (h : s.Inv) (notInt : ¬(s.int.occ = true ∧ s.int.instr = .halt)) (room : s.wb.occ = false)
    (p : Int) : ({ s.redirectTo p with redirect := false } : State).Inv := by
  have rel : Relabelled (Equiv.refl Holder) s { s.redirectTo p with redirect := false } :=
    ⟨rfl, rfl, rfl, rfl, fun j => by cases j <;> exact .refl _⟩
  obtain ⟨hs, order⟩ := h.queue
  refine .of_parts h.running h.noFault h.params h.memory rfl (rel.flightOk h.flightOk order ?_ ?_) ⟨nofun, nofun, nofun⟩
    ⟨fun o i => absurd ⟨o, i⟩ notInt, fun o => absurd (room.symm.trans o) (by decide), nofun⟩
    fun u => by cases u <;> exact h.unitOk _
  · exact fun o => absurd (room.symm.trans o) (by decide)
  · exact fun o i => absurd ⟨o, i⟩ notInt

/-! ### Decode -/

/-- The operand read of an instruction without a hazard keeps the invariant (40_pipeline R135). -/
theorem State.Inv.readOperands {s : State} (h : s.Inv) (clear : s.hazard s.d.instr = false) : s.readOperands.Inv := by
  have rel : Relabelled (Equiv.refl Holder) s s.readOperands := ⟨rfl, rfl, rfl, rfl, fun j => by cases j <;> exact .refl _⟩
  obtain ⟨hs, order⟩ := h.queue
  refine .of_parts h.running h.noFault h.params h.memory h.noRedirect (rel.flightOk h.flightOk order ?_ ?_)
    ⟨h.decodeFromTable, fun _ _ _ => clear, h.decodeStops⟩ ⟨h.haltInInt, h.haltInWb, h.stopHasCause⟩
    fun u => by cases u <;> exact h.unitOk _
  · exact fun o => by simpa using order.2.2.2.1 o
  · exact fun o i => by simpa using order.2.2.2.2 o i

/-- The latch that a dispatch fills. -/
theorem afterDispatch_own (s : State) :
    (afterDispatch s).unit (unitOf s.d.instr) = { s.d.toLatch with count := 0, st := .busy, occ := true } := by
  rw [afterDispatch_unit, State.setUnit_unit]

theorem afterDispatch_other {s : State} {u : UnitId} (h : u ≠ unitOf s.d.instr) : (afterDispatch s).unit u = s.unit u := by
  rw [afterDispatch_unit, State.setUnit_unit_of_ne _ _ h]

theorem afterDispatch_held {s : State} {j : Holder} (h : j ≠ (unitOf s.d.instr).holder) : (afterDispatch s).held j = s.held j := by
  rcases j.wb_or_unit with rfl | ⟨u, rfl⟩
  · simp [afterDispatch]
  · rw [State.held_holder, State.held_holder, afterDispatch_other fun e => h (by rw [e])]

theorem afterDispatch_inFlight {s : State} {j : Holder} :
    (afterDispatch s).inFlight j ↔ j = (unitOf s.d.instr).holder ∨ s.inFlight j := by
  by_cases hj : j = (unitOf s.d.instr).holder
  · subst hj; simp [afterDispatch_own]
  · simp [State.inFlight, afterDispatch_held hj, hj]

theorem afterDispatch_willWrite {s : State} {j : Holder} {r : Reg} (room : (s.unit (unitOf s.d.instr)).occ = false) :
    (afterDispatch s).willWrite j r ↔ (j = (unitOf s.d.instr).holder ∧ destOf s.d.instr = some r) ∨ s.willWrite j r := by
  by_cases hj : j = (unitOf s.d.instr).holder
  · subst hj; simp [State.willWrite, afterDispatch_own, room]
  · simp [State.willWrite, State.inFlight, afterDispatch_held hj, hj]

/-- Without a hazard nothing in flight writes the destination (40_pipeline R133). -/
theorem State.FlightOk.dest_free {s : State} (f : s.FlightOk) {i : Instr} (clear : s.hazard i = false) {r : Reg}
    (hd : destOf i = some r) (j : Holder) : ¬s.willWrite j r := by
  intro w
  have hb : s.sb[r] = true := (f.busy r).mpr ⟨j, w⟩
  rw [State.hazard, List.any_eq_false] at clear
  exact clear r (by simp [hazardsOf, hd]) hb

/-- The dispatched instruction is the youngest in flight. -/
theorem afterDispatch_flightOk {s : State} (f : s.FlightOk) (room : (s.unit (unitOf s.d.instr)).occ = false)
    (clear : s.hazard s.d.instr = false) (table : s.fromTable s.d.toLatch)
    (noHalt : ¬(s.int.occ = true ∧ s.int.instr = .halt)) : (afterDispatch s).FlightOk where
  queue := by
    obtain ⟨hs, nodup, mem, rq, first, -⟩ := f.queue
    have hnot : (unitOf s.d.instr).holder ∉ hs := fun hm => by
      rw [mem, State.inFlight_holder, room] at hm
      cases hm
    have hown : ((afterDispatch s).held (unitOf s.d.instr).holder).seq = s.d.seq := by
      rw [State.held_holder, afterDispatch_own]
    refine ⟨hs ++ [(unitOf s.d.instr).holder], ?_, fun j => ?_, ?_, fun o => ?_, fun o i => ?_⟩
    · exact List.nodup_append.mpr ⟨nodup, List.nodup_singleton _, fun j hj k hk => by
        rw [List.mem_singleton.mp hk]; exact fun e => hnot (e ▸ hj)⟩
    · rw [afterDispatch_inFlight, List.mem_append, List.mem_singleton, mem, or_comm]
    · have hq : (afterDispatch s).rq = s.rq ++ [s.d.seq] := rfl
      have old : hs.map (fun h => ((afterDispatch s).held h).seq) = hs.map (fun h => (s.held h).seq) :=
        List.map_congr_left fun j hj => by rw [afterDispatch_held fun e => hnot (e ▸ hj)]
      rw [hq, rq, List.map_append, old, List.map_singleton, hown]
    · have hw : s.wb.occ = true := by simpa [afterDispatch] using o
      simp [first hw]
    · by_cases hu : unitOf s.d.instr = .int
      · simp [hu, UnitId.holder]
      · have e : (afterDispatch s).int = s.int := afterDispatch_other (u := .int) (Ne.symm hu)
        rw [e] at o i
        exact absurd ⟨o, i⟩ noHalt
  busy r := by
    rw [afterDispatch_sb, State.reserve_sb_get, f.busy]
    simp only [afterDispatch_willWrite room]
    constructor
    · rintro (⟨j, w⟩ | hd)
      · exact ⟨j, .inr w⟩
      · exact ⟨_, .inl ⟨rfl, hd⟩⟩
    · rintro ⟨j, ⟨-, hd⟩ | w⟩
      · exact .inr hd
      · exact .inl ⟨j, w⟩
  oneWriter r j k wj wk := by
    rcases (afterDispatch_willWrite room).mp wj with ⟨rfl, hj⟩ | wj <;>
      rcases (afterDispatch_willWrite room).mp wk with ⟨rfl, hk⟩ | wk
    · rfl
    · exact absurd wk (f.dest_free clear hj k)
    · exact absurd wj (f.dest_free clear hk j)
    · exact f.oneWriter r j k wj wk
  heldFromTable j o := by
    have hc : (afterDispatch s).code = s.code ∧ (afterDispatch s).cfg = s.cfg := by simp [afterDispatch]
    unfold State.fromTable
    rw [hc.1, hc.2]
    by_cases hj : j = (unitOf s.d.instr).holder
    · subst hj
      rw [State.held_holder, afterDispatch_own]
      exact table
    · rw [afterDispatch_held hj]
      exact f.heldFromTable j ((afterDispatch_inFlight.mp o).resolve_left hj)

/-- Dispatch keeps the invariant (40_pipeline R138 to R142). -/
theorem State.Inv.dispatch {s : State} (h : s.Inv) (occ : s.d.occ = true) (valid : s.d.invalid = false)
    (phase : s.d.phase = .awaitUnit) (room : (s.unit (unitOf s.d.instr)).occ = false) : (afterDispatch s).Inv := by
  have k := DecodeKeeps.afterDispatch s
  have hcore : (afterDispatch s).status = s.status ∧ (afterDispatch s).fault = s.fault ∧ (afterDispatch s).dmem = s.dmem ∧
      (afterDispatch s).fetchEn = s.fetchEn ∧ (afterDispatch s).wb = s.wb := by simp [afterDispatch]
  obtain ⟨hst, hf, hm, hen, hwb⟩ := hcore
  have noHalt : ¬(s.int.occ = true ∧ s.int.instr = .halt) := fun ⟨o, i⟩ => by
    rw [(h.haltInInt o i).2] at occ; cases occ
  have intHalt : (afterDispatch s).int.occ = true → (afterDispatch s).int.instr = .halt → s.d.instr = .halt := by
    intro o i
    by_cases hu : unitOf s.d.instr = .int
    · have e := afterDispatch_own s
      rw [hu, State.unit_int] at e
      rw [e] at i
      exact i
    · have e : (afterDispatch s).int = s.int := afterDispatch_other (u := .int) (Ne.symm hu)
      rw [e] at o i
      exact absurd ⟨o, i⟩ noHalt
  refine .of_parts (hst.trans h.running) (hf.trans h.noFault) (by rw [k.cfg]; exact h.params)
    ((State.memoryOk_congr k.cfg hm).mpr h.memory) (k.redirect.trans h.noRedirect)
    (afterDispatch_flightOk h.flightOk room (h.awaitClear occ valid phase) (h.decodeFromTable occ valid) noHalt)
    ⟨nofun, nofun, nofun⟩ ⟨fun o i => ?_, fun o i => ?_, fun e => ?_⟩ fun u => ?_
  · rw [hen]
    exact ⟨h.decodeStops occ (.inr (intHalt o i)), rfl⟩
  · rw [hwb] at o i
    rw [(h.haltInWb o i).2.1] at occ
    cases occ
  · rw [hen] at e
    rcases h.stopHasCause e with ⟨-, c⟩ | c | c
    · have i : s.d.instr = .halt := c.resolve_left (by simp [valid])
      have own := afterDispatch_own s
      rw [i, show unitOf .halt = .int from rfl, State.unit_int] at own
      exact .inr (.inl (by rw [own]; exact ⟨rfl, i⟩))
    · exact absurd c noHalt
    · rw [hwb]; exact .inr (.inr c)
  · by_cases hu : u = unitOf s.d.instr
    · subst hu
      rw [afterDispatch_own]
      refine ⟨fun _ => ⟨rfl, ?_⟩, nofun⟩
      cases unitOf s.d.instr
      · rfl
      · exact .inl ⟨rfl, (by decide : 0 < Config.mulLat)⟩
      · exact .inl ⟨rfl, (by decide : 0 < Config.lsLat)⟩
    · rw [afterDispatch_other hu]; exact h.unitOk u

/-! ### Fetch -/

/-- A change of the fetch state and of the empty Decode latch keeps the invariant when what it puts there does. -/
theorem State.Inv.fill {s : State} (h : s.Inv) (en : s.fetchEn = true) (f : Latch) (d : DecodeLatch) (p : Int) (e : Bool)
    (table : d.invalid = false → s.fromTable d.toLatch ∧ d.phase = .check) (occ : d.occ = true)
    (stops : e = false ↔ d.invalid = true ∨ d.instr = .halt) :
    ({ s with f := f, d := d, pc := p, fetchEn := e } : State).Inv := by
  have rel : Relabelled (Equiv.refl Holder) s { s with f := f, d := d, pc := p, fetchEn := e } :=
    ⟨rfl, rfl, rfl, rfl, fun j => by cases j <;> exact .refl _⟩
  have enabled : s.fetchEn ≠ false := by simp [en]
  obtain ⟨hs, order⟩ := h.queue
  refine .of_parts h.running h.noFault h.params h.memory h.noRedirect (rel.flightOk h.flightOk order ?_ ?_)
    ⟨fun _ v => (table v).1, fun _ v ph => ?_, fun _ c => stops.mpr c⟩
    ⟨fun o i => absurd (h.haltInInt o i).1 enabled, fun o i => absurd (h.haltInWb o i).1 enabled,
      fun c => .inl ⟨occ, stops.mp c⟩⟩ fun u => by cases u <;> exact h.unitOk _
  · exact fun o => by simpa using order.2.2.2.1 o
  · exact fun o i => by simpa using order.2.2.2.2 o i
  · rw [(table v).2] at ph; cases ph

end Sys2Proof.Machine
end

section
/-! Every stage of a tick that leaves the core RUNNING keeps the pipeline invariant, and so does the tick: O53. -/

namespace Sys2Proof.Machine

theorem WritebackTick.inv {s t : State} (w : WritebackTick s t) (h : s.Inv) (ht : t.status = .running) : t.Inv := by
  cases w with
  | idle _ => exact h
  | fault => cases ht
  | retire occ _ => exact h.retire occ ht

theorem HandOff.inv {u : UnitId} {s t : State} (o : HandOff u s t) (h : s.Inv) (occ : (s.unit u).occ = true)
    (ht : t.status = .running) : t.Inv := by
  cases o with
  | fault => cases ht
  | wait _ => exact h
  | move head room => exact h.handOff occ room head

/-- A unit that counts its cycles, of latency `lat`. -/
theorem UnitTick.inv {u : UnitId} {lat : Nat} {s t : State} (w : UnitTick u lat s t) (h : s.Inv) (ht : t.status = .running)
    (hu : u ≠ .int) (hlat : ∀ l, UnitRunning u l ↔ unitProgress l lat) : t.Inv := by
  cases w with
  | idle _ => exact h
  | count occ st more =>
    obtain ⟨route, prog⟩ := (h.unitOk u).holds occ
    rw [hlat] at prog
    have below : (s.unit u).count + 1 < lat := by
      rcases prog with ⟨-, hc⟩ | ⟨e, -⟩
      · omega
      · rw [st] at e; cases e
    refine h.progress (.setUnit s u _) (by simp [State.counted]) (fun v hv => State.setUnit_unit_of_ne s _ hv)
      (State.setUnit_unit s u _) ((State.memoryOk_congr (by simp [State.counted]) (by simp [State.counted])).mpr h.memory)
      ⟨rfl, fun _ => ⟨rfl, rfl, rfl⟩⟩ ⟨fun _ => ⟨route, (hlat _).mpr (.inl ⟨st, below⟩)⟩, fun o => ?_⟩
    rw [occ] at o; cases o
  | fault _ _ _ _ ended => exact absurd ht ended
  | @final v _ occ st last run going off =>
    have route := ((h.unitOk u).holds occ).1
    have e := exec_effect run
    have others := e.others (isBranch_of_unitOf (by rw [route]; exact hu))
    rw [route] at others
    have toV : SameControl s v :=
      (SameControl.setUnit s u _).trans (.of_frames e.keeps others (by simpa [State.counted] using h.running) going)
    obtain ⟨r, ea, own⟩ := e.own
    rw [route] at own
    have done : (v.markDone u).unit u =
        { s.unit u with res := r, ea := ea, count := (s.unit u).count + 1, st := .done } := by
      simp [State.markDone, own, State.counted]
    have mem : (v.markDone u).memoryOk := (State.memoryOk_congr (by simp [State.markDone]) (by simp [State.markDone])).mpr
      (e.memoryOk ((State.memoryOk_congr (by simp [State.counted]) (by simp [State.counted])).mpr h.memory))
    have computed : (v.markDone u).Inv := by
      refine h.progress (toV.trans (.setUnit v u _)) ?_ (fun w hw => ?_) done mem ⟨rfl, fun _ => ⟨rfl, rfl, rfl⟩⟩
        ⟨fun _ => ⟨route, (hlat _).mpr (.inr ⟨rfl, last⟩)⟩, fun o => ?_⟩
      · simp [State.markDone, e.wb, State.counted]
      · rw [State.markDone, State.setUnit_unit_of_ne _ _ hw, others.unit w hw, State.counted, State.setUnit_unit_of_ne _ _ hw]
      · exact absurd (occ.symm.trans o) (by decide)
    exact off.inv computed (by rw [done]; exact occ) ht
  | done occ _ off => exact off.inv h occ ht

/-- The invariant with the redirect flag set aside: after a taken branch the Decode latch is empty, so that Decode does nothing and
Fetch clears the flag (10_state R32). -/
def State.RedirectedInv (s : State) : Prop :=
  s.redirect = true ∧ s.d.occ = false ∧ ({ s with redirect := false } : State).Inv

/-- The Integer unit's hand-off in the tick in which it computed: the instruction is at the queue head, so it moves. -/
theorem HandOff.of_int_head {s t : State} (o : HandOff .int (s.markDone .int) t) (head : s.rq.head? = some s.int.seq)
    (ht : t.status = .running) : s.wb.occ = false ∧ t = (s.markDone .int).handedOff .int := by
  cases o with
  | fault => cases ht
  | wait behind => exact absurd head behind
  | move _ room => exact ⟨room, rfl⟩

theorem IntTick.inv {s t : State} (w : IntTick s t) (h : s.Inv) (ht : t.status = .running) : t.Inv ∨ t.RedirectedInv := by
  cases w with
  | idle _ => exact .inl h
  | noQueue => cases ht
  | fault _ _ _ ended => exact absurd ht ended
  | @compute v _ occ head run going off =>
    have e := exec_effect run
    have route : unitOf s.int.instr = .int := (h.intUnit occ).1
    obtain ⟨r, ea, own⟩ := e.own
    rw [route, State.unit_int, State.unit_int] at own
    obtain ⟨room, rfl⟩ := off.of_int_head (by rw [e.keeps.rq, own]; exact head) ht
    rcases e.others_or_redirect with others | ⟨imm, branch, rfl⟩
    · rw [route] at others
      have computed : v.Inv := h.progress (u := .int) (.of_frames e.keeps others h.running going) e.wb others.unit own
        (e.memoryOk h.memory) ⟨rfl, fun _ => ⟨rfl, rfl, rfl⟩⟩ ⟨(h.unitOk .int).holds, (h.unitOk .int).free⟩
      exact .inl (computed.intHandOff (by rw [own]; exact occ) room (by rw [e.keeps.rq, own]; exact head))
    · have notHalt : s.int.instr ≠ .halt := by rcases branch with i | i <;> rw [i] <;> exact nofun
      exact .inr ⟨rfl, rfl, (h.redirect (fun i => notHalt i.2) room _).intHandOff occ room head⟩

theorem Dispatch.inv {s t : State} (w : Dispatch s t) (h : s.Inv) (occ : s.d.occ = true) (valid : s.d.invalid = false)
    (phase : s.d.phase = .awaitUnit) (ht : t.status = .running) : t.Inv := by
  cases w with
  | wait _ => exact h
  | fault => cases ht
  | go room => exact h.dispatch occ valid phase room

theorem DecodeTick.inv {s t : State} (w : DecodeTick s t) (h : s.Inv) (ht : t.status = .running) : t.Inv := by
  cases w with
  | idle => exact h
  | fetchFault => cases ht
  | read occ valid clear go => exact go.inv (h.readOperands clear) occ valid rfl ht
  | await occ valid phase go => exact go.inv h occ valid phase ht

theorem fetch_inv {s t : State} (e : fetch s = .next t) (h : s.Inv) : t.Inv := by
  rcases fetch_cases s with ⟨-, f⟩ | ⟨-, -, f⟩ | ⟨-, en, -, k, i, slot, f⟩ | ⟨-, en, -, -, f⟩ <;> rw [f] at e <;> cases e
  · have e : ({ s with redirect := false } : State) = s := by rw [← h.noRedirect]
    rw [e]; exact h
  · exact h
  · obtain ⟨code, pc⟩ := State.fetchSlot_some slot
    exact h.fill en _ _ _ _ (fun _ => ⟨⟨code, pc⟩, rfl⟩) rfl (by simp [fetched])
  · exact h.fill en s.f _ s.pc _ (fun v => by cases v) rfl (by simp [marker])

/-- After a taken branch Decode and Fetch only clear the redirect flag. -/
theorem State.RedirectedInv.decode_fetch {s t v : State} (h : s.RedirectedInv) (d : decodeStage s = .next t) (f : fetch t = .next v) :
    v.Inv := by
  obtain ⟨redirect, empty, inv⟩ := h
  obtain rfl : s = t := by simpa [decodeStage, empty] using d
  obtain rfl : { s with redirect := false } = v := by simpa [fetch, redirect] using f
  exact inv

/-- Settles O53: each stage keeps the invariant, but for the redirect flag between the Integer unit and Fetch. -/
theorem everyTickKeepsThePipelineInvariant : Obligations.EveryTickKeepsThePipelineInvariant := by
  intro s t h hstep ht
  obtain ⟨a, b, c, d, e, st⟩ := step_stages h.running hstep
  obtain ⟨he, fetch⟩ := st.fetch.of_running ht
  obtain ⟨hd, decode⟩ := st.decode.of_running he
  obtain ⟨hc, integer⟩ := st.integer.of_running hd
  obtain ⟨hb, multiply⟩ := st.multiply.of_running hc
  obtain ⟨ha, loadStore⟩ := st.loadStore.of_running hb
  have ia : a.Inv := (writeback_tick st.writeback).inv (h.withClock _) ha
  have ib : b.Inv := (loadStore_tick ha loadStore).inv ia hb (by decide) fun _ => .rfl
  have ic : c.Inv := (multiply_tick hb multiply).inv ib hc (by decide) fun _ => .rfl
  rcases (integer_tick integer).inv ic hd with id | id
  · exact fetch_inv fetch ((decodeStage_tick decode).inv id he)
  · exact id.decode_fetch decode fetch

end Sys2Proof.Machine
end

section
/-! What an empty latch holds besides its status is never read: O58. Every operation of a tick gives, up to the contents of empty
latches, the same answer on a state as on its readable part; so two states that read the same step to states that read the same. -/

namespace Sys2Proof.Machine

/-! ### The readable part of a state -/

@[simp] theorem Latch.readable_readable (l : Latch) : l.readable.readable = l.readable := by
  cases h : l.occ <;> simp [Latch.readable, Latch.empty, h]

@[simp] theorem DecodeLatch.readable_st (l : DecodeLatch) : l.readable.st = l.st := by
  cases h : l.occ <;> simp [DecodeLatch.readable, h]

@[simp] theorem DecodeLatch.readable_readable (l : DecodeLatch) : l.readable.readable = l.readable := by
  cases h : l.occ <;> simp [DecodeLatch.readable, DecodeLatch.empty, Latch.empty, h]

theorem Latch.readable_of_empty {l : Latch} (h : l.occ = false) : l.readable = { Latch.empty with st := l.st } := by
  simp [Latch.readable, h]

theorem DecodeLatch.readable_of_empty {l : DecodeLatch} (h : l.occ = false) : l.readable = { DecodeLatch.empty with st := l.st } := by
  simp [DecodeLatch.readable, h]

@[simp] theorem State.readable_readable (s : State) : s.readable.readable = s.readable := by simp [State.readable]
@[simp] theorem State.readable_cfg (s : State) : s.readable.cfg = s.cfg := rfl
@[simp] theorem State.readable_rq (s : State) : s.readable.rq = s.rq := rfl
@[simp] theorem State.readable_status (s : State) : s.readable.status = s.status := rfl
@[simp] theorem State.readable_d (s : State) : s.readable.d = s.d.readable := rfl
@[simp] theorem State.readable_wb (s : State) : s.readable.wb = s.wb.readable := rfl
@[simp] theorem State.readable_unit (s : State) (u : UnitId) : s.readable.unit u = (s.unit u).readable := by cases u <;> rfl

theorem State.readable_setUnit (s : State) (u : UnitId) (l : Latch) :
    (s.setUnit u l).readable = s.readable.setUnit u l.readable := by cases u <;> rfl

theorem State.readable_raise (s : State) (k : FaultKind) (q : Option Nat) (a : Option Int) :
    (s.raise k q a).readable = s.readable.raise k q a := rfl

theorem State.readable_counted {s : State} {u : UnitId} (h : (s.unit u).occ = true) :
    (s.counted u).readable = s.readable.counted u := by
  simp [State.counted, State.readable_setUnit, h]

theorem State.readable_markDone {s : State} {u : UnitId} (h : (s.unit u).occ = true) :
    (s.markDone u).readable = s.readable.markDone u := by
  simp [State.markDone, State.readable_setUnit, h]

theorem State.readable_redirectTo (s : State) (p : Int) : (s.redirectTo p).readable = (s.readable.redirectTo p).readable := by
  simp [State.redirectTo, State.readable, DecodeLatch.readable_of_empty]

/-! ### The readable part of an answer -/

/-- An answer with the contents of the empty latches set aside. -/
def Result.readable : Result → Result
  | .next s => .next s.readable
  | .fault e => .fault e
  | .refused e => .refused e

@[simp] theorem Result.readable_next (s : State) : Result.readable (.next s) = .next s.readable := rfl

/-- On states with `P`, the answer depends only on what is readable. -/
def ReadsOnly (P : State → Prop) (f : State → Result) : Prop :=
  ∀ s u, s.status = .running → P s → P u → s.readable = u.readable → (f s).readable = (f u).readable

/-- It suffices to compare a state with its readable part. -/
theorem ReadsOnly.of_self {P : State → Prop} {f : State → Result}
    (h : ∀ s, s.status = .running → P s → (f s).readable = (f s.readable).readable) : ReadsOnly P f := by
  intro s u hr hs hu e
  have hu' : u.status = .running := by rw [← State.readable_status, ← e]; exact hr
  rw [h s hr hs, h u hu' hu, e]

/-- Two answers that read the same go on to answers that read the same. -/
theorem Result.readable_andThen {P : State → Prop} {r r' : Result} {f : State → Result} (e : r.readable = r'.readable)
    (hr : ∀ s, r = .next s → P s) (hr' : ∀ s, r' = .next s → P s) (hf : ReadsOnly P f) :
    (r.andThen f).readable = (r'.andThen f).readable := by
  cases r <;> cases r' <;> simp only [Result.readable, reduceCtorEq, Host.Outcome.next.injEq] at e
  case next.next s u =>
    have hst : s.status = u.status := (congrArg State.status e : s.readable.status = u.readable.status)
    by_cases hs : s.status = .running
    · rw [Result.andThen_next_of_running f hs, Result.andThen_next_of_running f (hst ▸ hs)]
      exact hf s u hs (hr s rfl) (hr' u rfl) e
    · rw [Result.andThen_next_of_not_running f hs, Result.andThen_next_of_not_running f (hst ▸ hs)]
      exact congrArg Host.Outcome.next e
  all_goals exact e

/-- Stages in sequence. -/
theorem ReadsOnly.andThen {P Q : State → Prop} {f g : State → Result} (hf : ReadsOnly P f)
    (keep : ∀ s t, s.status = .running → P s → f s = .next t → Q t) (hg : ReadsOnly Q g) :
    ReadsOnly P fun s => (f s).andThen g := by
  intro s u hr hs hu e
  have hu' : u.status = .running := by rw [← State.readable_status, ← e]; exact hr
  exact Result.readable_andThen (hf s u hr hs hu e) (fun t => keep s t hr hs) (fun t => keep u t hu' hu) hg

/-! ### Computation -/

section
variable {s : State}

theorem intResult_readable (h : s.int.occ = true) (v : Word) : (s.intResult v).readable = (s.readable.intResult v).readable := by
  simp [State.intResult, State.setZ, State.readable, h]

theorem intArith_readable (h : s.int.occ = true) (v : Int) : (intArith v s).readable = (intArith v s.readable).readable := by
  have e : s.readable.int = s.int := Latch.readable_of_occ h
  unfold intArith
  rw [e, State.readable_cfg]
  cases fit s.cfg.overflow v with
  | none => simp [State.readable_raise]
  | some w => simp [intResult_readable h]

theorem mulArith_readable (h : s.mul.occ = true) (v : Int) : (mulArith v s).readable = (mulArith v s.readable).readable := by
  have e : s.readable.mul = s.mul := Latch.readable_of_occ h
  unfold mulArith
  rw [e, State.readable_cfg]
  cases fit s.cfg.overflow v with
  | none => simp [State.readable_raise]
  | some w => simp [State.setZ, State.readable, h]

theorem loadCell_readable (h : s.ls.occ = true) (ea : Int) : (loadCell ea s).readable = (loadCell ea s.readable).readable := by
  cases hv : validAddress s.cfg ea with
  | true => rw [loadCell_valid hv, loadCell_valid (s := s.readable) hv]; simp [State.readable, h]
  | false => rw [loadCell_invalid hv, loadCell_invalid (s := s.readable) hv]; simp [State.readable, State.raise, h]

theorem storeCell_readable (h : s.ls.occ = true) (ea : Int) (v : Word) :
    (storeCell ea v s).readable = (storeCell ea v s.readable).readable := by
  cases hv : validAddress s.cfg ea with
  | true => rw [storeCell_valid v hv, storeCell_valid (s := s.readable) v hv]; simp [State.readable, h]
  | false => rw [storeCell_invalid v hv, storeCell_invalid (s := s.readable) v hv]; simp [State.readable, State.raise, h]

theorem exec_int_readable {i : Instr} (hi : unitOf i = .int) (h : s.int.occ = true) :
    Result.readable (exec i s) = Result.readable (exec i s.readable) := by
  have e : s.readable.int = s.int := Latch.readable_of_occ h
  have z : s.readable.z = s.z := rfl
  have arith := intArith_readable h
  have result := intResult_readable h
  cases i with
  | add rd rs1 rs2 => simpa only [exec, execAdd, e] using arith _
  | addl rd rs1 imm => simpa only [exec, execAddl, e] using arith _
  | sub rd rs1 rs2 => simpa only [exec, execSub, e] using arith _
  | subl rd rs1 imm => simpa only [exec, execSubl, e] using arith _
  | div rd rs1 rs2 =>
    simp only [exec, execDiv, e]
    split
    · simp [State.readable_raise]
    · exact arith _
  | and rd rs1 rs2 => simp only [exec, execAnd, e, Result.readable_next, result]
  | or rd rs1 rs2 => simp only [exec, execOr, e, Result.readable_next, result]
  | xor rd rs1 rs2 => simp only [exec, execXor, e, Result.readable_next, result]
  | cmp rs1 rs2 => simp [exec, execCmp, State.readable, h]
  | movc rd imm => simp only [exec, execMovc, Result.readable_next, result]
  | bz imm =>
    simp only [exec, execBz, e, z]
    split
    · simp [State.readable_redirectTo s]
    · simp
  | bnz imm =>
    simp only [exec, execBnz, e, z]
    split
    · simp [State.readable_redirectTo s]
    · simp
  | nop => simp [exec, execNop]
  | halt => simp [exec, execHalt]
  | _ => cases hi

theorem exec_ls_readable {i : Instr} (hi : unitOf i = .ls) (h : s.ls.occ = true) :
    Result.readable (exec i s) = Result.readable (exec i s.readable) := by
  have e : s.readable.ls = s.ls := Latch.readable_of_occ h
  cases i with
  | load rd rs1 imm => simpa only [exec, execLoad, e] using loadCell_readable h _
  | store rs1 rs2 imm => simpa only [exec, execStore, e] using storeCell_readable h _ _
  | ldr rd rs1 rs2 => simpa only [exec, execLdr, e] using loadCell_readable h _
  | str rs1 rs2 rs3 => simpa only [exec, execStr, e] using storeCell_readable h _ _
  | _ => cases hi

/-- A computation reads its own unit's latch, which is occupied, and no other latch. -/
theorem exec_readable {i : Instr} (h : (s.unit (unitOf i)).occ = true) :
    Result.readable (exec i s) = Result.readable (exec i s.readable) := by
  cases hi : unitOf i with
  | int => rw [hi] at h; exact exec_int_readable hi h
  | mul =>
    rw [hi] at h
    have e : s.readable.mul = s.mul := Latch.readable_of_occ h
    cases i with
    | mul rd rs1 rs2 => simpa only [exec, execMul, e] using mulArith_readable h _
    | _ => cases hi
  | ls => rw [hi] at h; exact exec_ls_readable hi h

/-! ### Hand-off and the units -/

theorem handedOff_readable {u : UnitId} (h : (s.unit u).occ = true) :
    (s.handedOff u).readable = (s.readable.handedOff u).readable := by
  simp only [State.handedOff, State.readable_setUnit, State.readable_unit, Latch.readable_of_occ h]
  simp [State.readable, h]

/-- A hand-off reads the latch it hands off, and whether Writeback is empty. -/
theorem handOff_readable {u : UnitId} (h : (s.unit u).occ = true) : (handOff u s).readable = (handOff u s.readable).readable := by
  rw [handOff_eq, handOff_eq, State.readable_unit, Latch.readable_of_occ h, State.readable_wb, Latch.readable_occ, State.readable_rq]
  split_ifs
  · simp [State.readable_raise]
  · simp
  · simp [State.readable_raise]
  · exact congrArg Host.Outcome.next (handedOff_readable h)

/-- Compute, mark DONE and hand off, for the unit of the instruction. -/
theorem computeAndHandOff_readable {i : Instr} {u : UnitId} (hu : unitOf i = u) (h : (s.unit u).occ = true) :
    (Result.andThen (exec i s) fun v => handOff u (v.markDone u)).readable =
      (Result.andThen (exec i s.readable) fun v => handOff u (v.markDone u)).readable := by
  subst hu
  have keep : ∀ {s v : State}, (s.unit (unitOf i)).occ = true → exec i s = .next v → (v.unit (unitOf i)).occ = true := by
    intro s v o e
    obtain ⟨r, ea, own⟩ := (exec_effect e).own
    rw [own]
    exact o
  refine Result.readable_andThen (P := fun v => (v.unit (unitOf i)).occ = true) (exec_readable h) (fun v => keep h)
    (fun v => keep (by rw [State.readable_unit, Latch.readable_occ]; exact h)) (.of_self fun v _ o => ?_)
  rw [← State.readable_markDone o]
  exact handOff_readable (by simpa [State.markDone] using o)

theorem runUnit_readsOnly (u : UnitId) (lat : Nat) : ReadsOnly State.routed (runUnit u lat) := by
  refine .of_self fun s hr hs => ?_
  have hr' : s.readable.status = .running := hr
  cases ho : (s.unit u).occ with
  | false => rw [runUnit_empty ho, runUnit_empty (by simpa using ho)]; simp
  | true =>
    have e : s.readable.unit u = s.unit u := by rw [State.readable_unit, Latch.readable_of_occ ho]
    cases hst : (s.unit u).st with
    | free => rw [runUnit_free hst hr, runUnit_free (by rw [e]; exact hst) hr']; simp
    | busy =>
      by_cases hc : (s.unit u).count + 1 = lat
      · rw [runUnit_final ho hst hc, runUnit_final (by rw [e]; exact ho) (by rw [e]; exact hst) (by rw [e]; exact hc), e,
          ← State.readable_counted ho]
        exact computeAndHandOff_readable (State.routed_iff.mp hs u ho) (by simpa [State.counted] using ho)
      · rw [runUnit_count ho hst hc hr, runUnit_count (by rw [e]; exact ho) (by rw [e]; exact hst) (by rw [e]; exact hc) hr',
          ← State.readable_counted ho]
        simp
    | done =>
      rw [runUnit_done ho hst hr, runUnit_done (by rw [e]; exact ho) (by rw [e]; exact hst) hr']
      exact handOff_readable ho

theorem integer_readsOnly : ReadsOnly State.routed integer := by
  refine .of_self fun s _ hs => ?_
  cases ho : s.int.occ with
  | false =>
    have ho' : s.readable.int.occ = false := by rw [← ho]; exact Latch.readable_occ _
    simp [integer, ho, ho']
  | true =>
    have e : s.readable.int = s.int := Latch.readable_of_occ ho
    simp only [integer, e, ho, State.readable_rq]
    cases s.rq with
    | nil => simp [State.readable_raise]
    | cons k q =>
      dsimp only
      split
      · simp
      · split
        · simp
        · exact computeAndHandOff_readable (hs.1 ho) ho

/-! ### Writeback -/

theorem afterRetire_readable (h : s.wb.occ = true) : (afterRetire s).readable = (afterRetire s.readable).readable := by
  have e : s.readable.wb = s.wb := Latch.readable_of_occ h
  have hx : s.readable.commitResult.x = s.commitResult.x := by rw [State.commitResult_x, State.commitResult_x, e]; rfl
  have hsb : s.readable.commitResult.sb = s.commitResult.sb := by rw [State.commitResult_sb, State.commitResult_sb, e]; rfl
  simp only [afterRetire, e, hx, hsb]
  simp [State.readable]

theorem writeback_readable (s : State) : (writeback s).readable = (writeback s.readable).readable := by
  cases h : s.wb.occ with
  | false => simp [writeback, h]
  | true =>
    have e : s.readable.wb = s.wb := Latch.readable_of_occ h
    by_cases head : s.rq.head? = some s.wb.seq
    · rw [writeback_retires h head, writeback_retires (by rw [e]; exact h) (by rw [e]; exact head)]
      exact congrArg Host.Outcome.next (afterRetire_readable h)
    · simp [writeback, h, head, State.readable_raise]

/-! ### Decode and Fetch -/

theorem State.readable_reserve (s : State) (i : Instr) : (s.reserve i).readable = s.readable.reserve i := by
  unfold State.reserve
  cases destOf i <;> rfl

/-- The readable part of the state after a dispatch, from the readable part before and the Decode latch. -/
theorem readable_afterDispatch (s : State) : (afterDispatch s).readable =
    { (s.readable.setUnit (unitOf s.d.instr) { s.d.toLatch with count := 0, st := .busy, occ := true }).reserve s.d.instr with
      rq := s.rq ++ [s.d.seq]
      d := { DecodeLatch.empty with st := s.d.st } } := by
  rw [← Latch.readable_of_occ (l := { s.d.toLatch with count := 0, st := .busy, occ := true }) rfl, ← State.readable_setUnit,
    ← State.readable_reserve, ← DecodeLatch.readable_of_empty (l := { s.d with occ := false }) rfl]
  rfl

theorem afterDispatch_readable (h : s.d.occ = true) : (afterDispatch s).readable = (afterDispatch s.readable).readable := by
  have e : s.readable.d = s.d := DecodeLatch.readable_of_occ h
  rw [readable_afterDispatch, readable_afterDispatch, e, State.readable_readable, State.readable_rq]

/-- Dispatch reads the Decode latch, which is occupied, and whether the unit is empty. -/
theorem dispatch_readable (h : s.d.occ = true) : (dispatch s).readable = (dispatch s.readable).readable := by
  have e : s.readable.d = s.d := DecodeLatch.readable_of_occ h
  rw [dispatch_eq, dispatch_eq, e, State.readable_unit, Latch.readable_occ, State.readable_rq]
  split_ifs
  · simp
  · simp [State.readable_raise]
  · exact congrArg Host.Outcome.next (afterDispatch_readable h)

theorem readOperands_readable (h : s.d.occ = true) : s.readOperands.readable = s.readable.readOperands := by
  have e : s.readable.d = s.d := DecodeLatch.readable_of_occ h
  simp only [State.readOperands, e]
  simp [State.readable, h, State.sourceValue]

theorem decodeStage_readsOnly (P : State → Prop) : ReadsOnly P decodeStage := by
  refine .of_self fun s _ _ => ?_
  cases h : s.d.occ with
  | false => simp [decodeStage, h]
  | true =>
    have e : s.readable.d = s.d := DecodeLatch.readable_of_occ h
    have hz : s.readable.hazard s.d.instr = s.hazard s.d.instr := rfl
    simp only [decodeStage, e, hz, State.readable_rq]
    split
    · simp
    · split
      · split
        · simp [State.readable_raise]
        · simp
      · split
        · split
          · simp
          · rw [← readOperands_readable h]; exact dispatch_readable h
        · exact dispatch_readable h

/-- Fetch reads whether the Decode latch is empty. -/
theorem fetch_readsOnly (P : State → Prop) : ReadsOnly P fetch := by
  refine .of_self fun s _ _ => ?_
  have slot : s.readable.fetchSlot s.readable.pc = s.fetchSlot s.pc := rfl
  have occ : s.readable.d.occ = s.d.occ := DecodeLatch.readable_occ _
  have flags : s.readable.redirect = s.redirect ∧ s.readable.fetchEn = s.fetchEn := ⟨rfl, rfl⟩
  simp only [fetch, slot, occ, flags.1, flags.2]
  split
  · simp [State.readable]
  · split
    · simp
    · split
      · simp
      · split <;> simp [State.readable, fetched, marker]

end

/-! ### The tick -/

/-- The stages after Writeback, from the last one back. -/
theorem afterWriteback_readsOnly : ReadsOnly State.routed fun s =>
    (loadStore s).andThen fun s => (multiply s).andThen fun s => (integer s).andThen fun s => (decodeStage s).andThen fetch := by
  have d := (decodeStage_readsOnly State.routed).andThen (fun s t hr hs h => decode_routed (.inl ⟨hr, h⟩) hs)
    (fetch_readsOnly State.routed)
  have i := integer_readsOnly.andThen (fun s t hr hs h => (integer_keeps (.inl ⟨hr, h⟩)).routed hs) d
  have m := ReadsOnly.andThen (f := multiply) (runUnit_readsOnly .mul Config.mulLat)
    (fun s t hr hs h => (multiply_keeps (.inl ⟨hr, h⟩)).routed hs) i
  exact ReadsOnly.andThen (f := loadStore) (runUnit_readsOnly .ls Config.lsLat)
    (fun s t hr hs h => (loadStore_keeps (.inl ⟨hr, h⟩)).routed hs) m

theorem step_readsOnly : ReadsOnly State.routed step := by
  intro s u hr hs hu e
  have hu' : u.status = .running := by rw [← State.readable_status, ← e]; exact hr
  have tick : ∀ v, v.status = .running → step v = (writeback { v with clock := v.clock + 1#64 }).andThen fun s =>
      (loadStore s).andThen fun s => (multiply s).andThen fun s => (integer s).andThen fun s => (decodeStage s).andThen fetch := by
    intro v hv
    rw [tick_of_running hv]
    simp only [Result.andThen_assoc]
  have keep : ∀ v w : State, v.routed → writeback { v with clock := v.clock + 1#64 } = .next w → w.routed :=
    fun v w hv h => (writeback_tick h).keeps.routed hv
  rw [tick s hr, tick u hu']
  refine Result.readable_andThen ?_ (fun w => keep s w hs) (fun w => keep u w hu) afterWriteback_readsOnly
  rw [writeback_readable, writeback_readable { u with clock := _ }]
  exact congrArg (fun v => (writeback { v with clock := v.clock + 1#64 }).readable) e

/-- Settles O58. -/
theorem emptyLatchContentsAreNeverRead : Obligations.EmptyLatchContentsAreNeverRead := by
  intro s u t v hs hu e ht hv
  have h := step_readsOnly s u hs.running (State.routed_of_inv hs) (State.routed_of_inv hu) e
  rw [ht, hv] at h
  exact Host.Outcome.next.inj h

end Sys2Proof.Machine
end

section
/-! The data memory over a tick: O42, O45. A computation stores its value operand in the one cell it addresses or leaves the memory
alone, and of the stages only the units compute. -/

namespace Sys2Proof.Machine

/-! ### What a computation stores -/

/-- From `s` to `t` the memory has changed as the store `i` changes it: the value operand in the addressed cell, which exists
(20_memory R63, R70). -/
def Stored (i : Instr) (s t : State) : Prop :=
  ∃ ea, storedAddress i s.ls = some ea ∧ validAddress s.cfg ea = true ∧ t.dmem = Memory.write s.dmem ea.toNat s.ls.a

/-- A store runs as `storeCell` on its address and its value operand. -/
theorem exec_of_storedAddress {i : Instr} {s : State} {ea : Int} (h : storedAddress i s.ls = some ea) :
    exec i s = storeCell ea s.ls.a s := by
  obtain ⟨_, _, _, rfl, rfl⟩ | ⟨_, _, _, rfl, rfl⟩ := storedAddress_eq_some.mp h <;> rfl

theorem exec_dmem {i : Instr} {s t : State} (h : exec i s = .next t) : t.dmem = s.dmem ∨ Stored i s t := by
  refine (exec_effect h).dmem.imp_right fun ⟨ea, _, address, valid, _⟩ => ⟨ea, address, valid, ?_⟩
  rw [exec_of_storedAddress address, storeCell_valid _ valid] at h
  cases h
  rfl

/-- Only a Load/Store instruction stores. -/
theorem Stored.unitOf_eq {i : Instr} {s t : State} (h : Stored i s t) : unitOf i = .ls := by
  obtain ⟨_, address, -, -⟩ := h
  exact unitOf_of_accessAddress (accessAddress_of_stored address)

/-- A store reads no cycle count. -/
theorem Stored.of_counted {i : Instr} {u : UnitId} {s t : State} (h : Stored i (s.counted u) t) : Stored i s t := by
  obtain ⟨ea, address, valid, written⟩ := h
  have operands : (s.counted u).ls.a = s.ls.a ∧ (s.counted u).ls.b = s.ls.b ∧ (s.counted u).ls.c = s.ls.c := by
    cases u <;> exact ⟨rfl, rfl, rfl⟩
  have same : storedAddress i (s.counted u).ls = storedAddress i s.ls := by
    simp only [storedAddress, operands]
  refine ⟨ea, same ▸ address, by simpa [State.counted] using valid, ?_⟩
  rw [written, operands.1, State.counted, State.setUnit_dmem]

theorem memoryOk_of_keptOrStored {i : Instr} {s t : State} (h : t.dmem = s.dmem ∨ Stored i s t) (hc : t.cfg = s.cfg)
    (hs : s.memoryOk) : t.memoryOk := by
  obtain same | ⟨ea, -, valid, written⟩ := h
  · exact (State.memoryOk_congr hc same).mpr hs
  · exact (State.memoryOk_congr (s := { s with dmem := Memory.write s.dmem ea.toNat s.ls.a }) hc written).mpr
      (State.memoryOk_write hs valid _)

/-! ### The units -/

theorem HandOff.dmem {u : UnitId} {s t : State} (h : HandOff u s t) : t.dmem = s.dmem := by
  cases h with
  | fault => rfl
  | wait _ => rfl
  | move _ _ => simp [State.handedOff]

/-- A unit that counts its cycles stores on its final cycle only. -/
theorem UnitTick.dmem {u : UnitId} {lat : Nat} {s t : State} (h : UnitTick u lat s t) : t.dmem = s.dmem ∨
    (((s.unit u).occ = true ∧ (s.unit u).st = .busy ∧ (s.unit u).count + 1 = lat) ∧ Stored (s.unit u).instr s t) := by
  have run : ∀ {v}, exec (s.unit u).instr (s.counted u) = .next v → v.dmem = s.dmem ∨ Stored (s.unit u).instr s v := fun e =>
    (exec_dmem e).imp (fun same => by simpa [State.counted] using same) Stored.of_counted
  cases h with
  | idle _ => exact .inl rfl
  | count _ _ _ => exact .inl (by simp [State.counted])
  | fault occ st last e _ => exact (run e).imp_right fun stored => ⟨⟨occ, st, last⟩, stored⟩
  | @final v _ occ st last e _ off =>
    have same : t.dmem = v.dmem := by rw [off.dmem, State.markDone, State.setUnit_dmem]
    unfold Stored at *
    rw [same]
    exact (run e).imp_right fun stored => ⟨⟨occ, st, last⟩, stored⟩
  | done _ _ off => exact .inl off.dmem

theorem IntTick.dmem {s t : State} (h : IntTick s t) : t.dmem = s.dmem ∨ (s.int.occ = true ∧ Stored s.int.instr s t) := by
  cases h with
  | idle _ => exact .inl rfl
  | noQueue => exact .inl rfl
  | fault occ _ run _ => exact (exec_dmem run).imp_right fun stored => ⟨occ, stored⟩
  | @compute v _ occ _ run _ off =>
    have same : t.dmem = v.dmem := by rw [off.dmem, State.markDone, State.setUnit_dmem]
    unfold Stored
    rw [same]
    exact (exec_dmem run).imp_right fun stored => ⟨occ, stored⟩

theorem loadStore_dmem {s t : State} (h : StageStep loadStore s t) : t.dmem = s.dmem ∨
    ((s.ls.occ = true ∧ s.ls.st = .busy ∧ s.ls.count + 1 = Config.lsLat) ∧ Stored s.ls.instr s t) := by
  obtain ⟨hr, h⟩ | ⟨-, rfl⟩ := h
  · exact (loadStore_tick hr h).dmem
  · exact .inl rfl

theorem multiply_dmem {s t : State} (h : StageStep multiply s t) :
    t.dmem = s.dmem ∨ (s.mul.occ = true ∧ Stored s.mul.instr s t) := by
  obtain ⟨hr, h⟩ | ⟨-, rfl⟩ := h
  · exact (multiply_tick hr h).dmem.imp_right fun ⟨⟨occ, _⟩, stored⟩ => ⟨occ, stored⟩
  · exact .inl rfl

theorem integer_dmem {s t : State} (h : StageStep integer s t) :
    t.dmem = s.dmem ∨ (s.int.occ = true ∧ Stored s.int.instr s t) := by
  obtain ⟨-, h⟩ | ⟨-, rfl⟩ := h
  · exact (integer_tick h).dmem
  · exact .inl rfl

/-- The Multiplier and the Integer unit hold no store (40_pipeline R141). -/
theorem multiply_dmem_of_routed {s t : State} (h : StageStep multiply s t) (hs : s.routed) : t.dmem = s.dmem :=
  (multiply_dmem h).resolve_right fun ⟨occ, stored⟩ => nomatch (hs.2.1 occ).symm.trans stored.unitOf_eq

theorem integer_dmem_of_routed {s t : State} (h : StageStep integer s t) (hs : s.routed) : t.dmem = s.dmem :=
  (integer_dmem h).resolve_right fun ⟨occ, stored⟩ => nomatch (hs.1 occ).symm.trans stored.unitOf_eq

/-! ### The other stages -/

theorem WritebackTick.dmem {s t : State} (h : WritebackTick s t) : t.dmem = s.dmem := by
  cases h <;> rfl

theorem Dispatch.dmem {s t : State} (h : Dispatch s t) : t.dmem = s.dmem := by
  cases h with
  | wait _ => rfl
  | fault => rfl
  | go _ => simp [afterDispatch]

theorem decode_dmem {s t : State} (h : StageStep decodeStage s t) : t.dmem = s.dmem := by
  refine h.lift (R := fun s t => t.dmem = s.dmem) rfl fun _ h => ?_
  cases decodeStage_tick h with
  | idle => rfl
  | fetchFault => rfl
  | read _ _ _ go => exact go.dmem
  | await _ _ _ go => exact go.dmem

theorem fetch_dmem {s t : State} (h : StageStep fetch s t) : t.dmem = s.dmem := by
  refine h.lift (R := fun s t => t.dmem = s.dmem) rfl fun _ h => ?_
  rcases fetch_cases s with ⟨-, e⟩ | ⟨-, -, e⟩ | ⟨-, -, -, _, _, -, e⟩ | ⟨-, -, -, -, e⟩ <;> rw [e] at h <;> cases h <;> rfl

/-! ### The tick -/

theorem TickStages.dmem_writeback {s t a b c d e : State} (h : TickStages s t a b c d e) : a.dmem = s.dmem :=
  (writeback_tick h.writeback).dmem

theorem TickStages.dmem_decode_fetch {s t a b c d e : State} (h : TickStages s t a b c d e) : t.dmem = d.dmem :=
  (fetch_dmem h.fetch).trans (decode_dmem h.decode)

/-- In a routed core the memory after a tick is what the Load/Store unit left. -/
theorem TickStages.dmem_of_routed {s t a b c d e : State} (h : TickStages s t a b c d e) (hs : s.routed) : t.dmem = b.dmem := by
  have hb : b.routed := (loadStore_keeps h.loadStore).routed (h.writebackKeeps.routed hs)
  have hc : c.routed := (multiply_keeps h.multiply).routed hb
  exact h.dmem_decode_fetch.trans ((integer_dmem_of_routed h.integer hc).trans (multiply_dmem_of_routed h.multiply hb))

/-- Every tick keeps the memory canonical and in range: each unit in turn keeps it, and the other stages leave it alone. -/
theorem TickStages.memoryOk {s t a b c d e : State} (h : TickStages s t a b c d e) (hs : s.memoryOk) : t.memoryOk := by
  have ha : a.memoryOk := (State.memoryOk_congr h.writebackKeeps.cfg h.dmem_writeback).mpr hs
  have hb : b.memoryOk :=
    memoryOk_of_keptOrStored ((loadStore_dmem h.loadStore).imp_right And.right) (loadStore_keeps h.loadStore).cfg ha
  have hc : c.memoryOk :=
    memoryOk_of_keptOrStored ((multiply_dmem h.multiply).imp_right And.right) (multiply_keeps h.multiply).cfg hb
  have hd : d.memoryOk :=
    memoryOk_of_keptOrStored ((integer_dmem h.integer).imp_right And.right) (integer_keeps h.integer).cfg hc
  exact (State.memoryOk_congr ((fetch_keeps h.fetch).cfg.trans (decode_keeps h.decode).cfg) h.dmem_decode_fetch).mpr hd

/-- Settles O45. -/
theorem everyStepKeepsTheMemoryCanonical : Obligations.EveryStepKeepsTheMemoryCanonical := by
  intro s t hs hstep
  by_cases running : s.status = .running
  · obtain ⟨a, b, c, d, e, stages⟩ := step_stages running hstep
    exact stages.memoryOk hs
  · obtain rfl : s = t := Host.Outcome.next.inj ((tick_of_not_running running).symm.trans hstep)
    exact hs

/-- Settles O42: only the Load/Store unit can store, and Writeback leaves its latch for it as it was. -/
theorem memoryChangesOnlyByStores : Obligations.MemoryChangesOnlyByStores := by
  intro s t routed hstep changed
  by_cases running : s.status = .running
  · obtain ⟨a, b, c, d, e, stages⟩ := step_stages running hstep
    have hm : a.dmem = s.dmem := stages.dmem_writeback
    have hls : a.ls = s.ls := stages.writebackKeeps.unit .ls
    have hcfg : a.cfg = s.cfg := stages.writebackKeeps.cfg
    rw [stages.dmem_of_routed routed] at changed ⊢
    obtain ⟨⟨occ, st, last⟩, ea, address, valid, written⟩ :=
      (loadStore_dmem stages.loadStore).resolve_left (hm ▸ changed)
    rw [hls] at occ st last address written
    rw [hm] at written
    obtain ⟨low, high⟩ := (validAddress_iff _ _).mp valid
    exact ⟨ea, occ, st, Nat.succ.inj last, address, low, hcfg ▸ high, written⟩
  · obtain rfl : s = t := Host.Outcome.next.inj ((tick_of_not_running running).symm.trans hstep)
    exact absurd rfl changed

end Sys2Proof.Machine
end

section
/-! The encoding: O1 to O4. A canonical word is the record's word exactly when its seven fields are the record's (`eq_word_iff`). So
the word of a well-formed record decodes to what the record loads as, and a word decodes to an instruction exactly when its used bits
are those of the instruction's canonical word (30_encoding R82 to R89, R97). -/

namespace Sys2Proof.Machine

/-! ### The fields of a word -/

theorem bitVec_eq_append_iff {v w : Nat} {x : BitVec (v + w)} {hi : BitVec v} {lo : BitVec w} :
    x = hi ++ lo ↔ x.extractLsb' w v = hi ∧ x.extractLsb' 0 w = lo := by
  constructor
  · rintro rfl
    exact ⟨BitVec.extractLsb'_append_eq_left, BitVec.extractLsb'_append_eq_right⟩
  · rintro ⟨rfl, rfl⟩
    exact BitVec.extractLsb'_append_extractLsb'.symm

/-- The layout of R82, split off one field at a time from the top; `decode` reads the fields in the order given here. -/
theorem eq_word_iff (w : CodeWord) (r : Record) :
    w = r.word ↔ w.extractLsb' 21 11 = 0#11 ∧ w.extractLsb' 0 5 = BitVec.ofNat 5 r.op ∧
      w.extractLsb' 5 4 = BitVec.ofNat 4 r.rd ∧ w.extractLsb' 9 4 = BitVec.ofNat 4 r.rs1 ∧
      w.extractLsb' 13 4 = BitVec.ofNat 4 r.rs2 ∧ w.extractLsb' 17 4 = BitVec.ofNat 4 r.rs3 ∧
      w.extractLsb' 32 32 = BitVec.ofInt 32 r.imm := by
  rw [Record.word, bitVec_eq_append_iff (v := 32) (w := 32), bitVec_eq_append_iff (v := 11) (w := 21),
    bitVec_eq_append_iff (v := 4) (w := 17), bitVec_eq_append_iff (v := 4) (w := 13),
    bitVec_eq_append_iff (v := 4) (w := 9), bitVec_eq_append_iff (v := 4) (w := 5)]
  simp only [BitVec.extractLsb'_extractLsb'_of_le, Nat.reduceAdd, Nat.reduceLeDiff]
  tauto

theorem regAt_eq_iff (w : CodeWord) (lo : Nat) (r : Reg) : regAt w lo = r ↔ w.extractLsb' lo 4 = BitVec.ofNat 4 r := by
  rw [regAt, Fin.ext_iff, ← BitVec.toNat_inj, BitVec.toNat_ofNat, Nat.mod_eq_of_lt r.isLt]

/-! ### Records -/

theorem wellFormed_iff (r : Record) : r.wellFormed = true ↔
    r.op < 19 ∧ (r.rd < 16 ∧ r.rs1 < 16 ∧ r.rs2 < 16 ∧ r.rs3 < 16) ∧ minInt ≤ r.imm ∧ r.imm ≤ maxInt := by
  simp [Record.wellFormed, Record.regOk, Record.immOk, and_assoc]

/-- The two forms of an instruction the loader takes agree: a record that passes the check and its canonical word. -/
theorem decode_word {r : Record} (h : r.wellFormed = true) : decode r.word = r.toInstr := by
  obtain ⟨reserved, op, rd, rs1, rs2, rs3, imm⟩ := (eq_word_iff r.word r).mp rfl
  obtain ⟨hop, ⟨hrd, hrs1, hrs2, hrs3⟩, himm⟩ := (wellFormed_iff r).mp h
  have opKept : r.op % 2 ^ 5 = r.op := Nat.mod_eq_of_lt (by omega)
  simp only [decode, Record.toInstr, regAt, reserved, op, rd, rs1, rs2, rs3, imm, hrd, hrs1, hrs2, hrs3, himm, opKept,
    BitVec.toNat_ofNat, Nat.mod_eq_of_lt, if_pos, and_self, dif_pos]

/-- `Laws.RecordForm` for all instructions. -/
theorem recordForm : ∀ i : Instr, Laws.RecordForm.Statement i
  | .add rd rs1 rs2 => Laws.RecordForm.add rd rs1 rs2
  | .addl rd rs1 imm => Laws.RecordForm.addl rd rs1 imm
  | .sub rd rs1 rs2 => Laws.RecordForm.sub rd rs1 rs2
  | .subl rd rs1 imm => Laws.RecordForm.subl rd rs1 imm
  | .mul rd rs1 rs2 => Laws.RecordForm.mul rd rs1 rs2
  | .div rd rs1 rs2 => Laws.RecordForm.div rd rs1 rs2
  | .and rd rs1 rs2 => Laws.RecordForm.and rd rs1 rs2
  | .or rd rs1 rs2 => Laws.RecordForm.or rd rs1 rs2
  | .xor rd rs1 rs2 => Laws.RecordForm.xor rd rs1 rs2
  | .cmp rs1 rs2 => Laws.RecordForm.cmp rs1 rs2
  | .movc rd imm => Laws.RecordForm.movc rd imm
  | .load rd rs1 imm => Laws.RecordForm.load rd rs1 imm
  | .store rs1 rs2 imm => Laws.RecordForm.store rs1 rs2 imm
  | .ldr rd rs1 rs2 => Laws.RecordForm.ldr rd rs1 rs2
  | .str rs1 rs2 rs3 => Laws.RecordForm.str rs1 rs2 rs3
  | .bz imm => Laws.RecordForm.bz imm
  | .bnz imm => Laws.RecordForm.bnz imm
  | .nop => Laws.RecordForm.nop
  | .halt => Laws.RecordForm.halt

/-- Settles O1: the canonical word decodes as the instruction's own record loads. -/
theorem decodeOfEncodeIsTheInstruction : Obligations.DecodeOfEncodeIsTheInstruction := by
  intro i
  obtain ⟨wellFormed, loads⟩ := recordForm i
  exact (decode_word wellFormed).trans loads

/-! ### The words of an instruction -/

theorem instrOf_eq_ok_iff (op : Nat) (rd rs1 rs2 rs3 : Reg) (imm : Word) (i : Instr) :
    instrOf op rd rs1 rs2 rs3 imm = .ok i ↔ op = i.toRecord.op ∧ instrOf i.toRecord.op rd rs1 rs2 rs3 imm = .ok i := by
  refine ⟨fun h => ?_, fun ⟨e, h⟩ => e ▸ h⟩
  have e : op = i.toRecord.op := by
    unfold instrOf at h
    split at h <;> cases h <;> rfl
  exact ⟨e, e ▸ h⟩

theorem extractOp_toNat_eq_iff (w : CodeWord) (i : Instr) :
    (w.extractLsb' 0 5).toNat = i.toRecord.op ↔ w.extractLsb' 0 5 = BitVec.ofNat 5 i.toRecord.op := by
  have hop : i.toRecord.op < 2 ^ 5 := lt_trans ((wellFormed_iff _).mp (recordForm i).1).1 (by decide)
  rw [← BitVec.toNat_inj, BitVec.toNat_ofNat, Nat.mod_eq_of_lt hop]

theorem decode_eq_ok_iff_fields (w : CodeWord) (i : Instr) :
    decode w = .ok i ↔ w.extractLsb' 21 11 = 0#11 ∧ w.extractLsb' 0 5 = BitVec.ofNat 5 i.toRecord.op ∧
      instrOf i.toRecord.op (regAt w 5) (regAt w 9) (regAt w 13) (regAt w 17) (w.extractLsb' 32 32) = .ok i := by
  rw [← extractOp_toNat_eq_iff, ← instrOf_eq_ok_iff, decode]
  split <;> simp [*]

theorem and_of_eq_allOnes {n : Nat} {x m : BitVec n} (h : m = BitVec.allOnes n) : x &&& m = x :=
  h ▸ BitVec.and_allOnes

/-- R82, R83, R87: field by field, `usedBits` keeps the reserved bits, the opcode and what the format uses, and clears the rest. -/
theorem decode_eq_ok_iff (w : CodeWord) (i : Instr) : decode w = .ok i ↔ w &&& usedBits i = encode i := by
  rw [decode_eq_ok_iff_fields, encode, eq_word_iff]
  cases i <;> simp [usedBits, BitVec.extractLsb'_and, and_of_eq_allOnes, Instr.toRecord, instrOf, regAt_eq_iff]

/-- Settles O2: equal used bits are the used bits of one canonical word. -/
theorem decodeReadsOnlyTheUsedBits : Obligations.DecodeReadsOnlyTheUsedBits := by
  intro w v i decoded same
  have canonical : w &&& usedBits i = encode i := (decode_eq_ok_iff w i).mp decoded
  exact ⟨(decode_eq_ok_iff v i).mpr (same.trans canonical), canonical.symm⟩

/-! ### The refused words -/

theorem exists_instrOf_eq_error_iff (op : Nat) (rd rs1 rs2 rs3 : Reg) (imm : Word) :
    (∃ r, instrOf op rd rs1 rs2 rs3 imm = .error r) ↔ 19 ≤ op := by
  by_cases h : op < 19
  · interval_cases op <;> simp [instrOf]
  · obtain ⟨n, rfl⟩ := Nat.exists_eq_add_of_le' (not_lt.mp h)
    simp [instrOf]

/-- Settles O4: a word with reserved bits 0 is refused for its opcode only. -/
theorem illegalWordsAreExactlyTheRefusedOnes : Obligations.IllegalWordsAreExactlyTheRefusedOnes := by
  intro w
  by_cases reserved : w.extractLsb' 21 11 = 0#11
  · rw [decode, if_pos reserved, exists_instrOf_eq_error_iff]
    exact (or_iff_left (not_not_intro reserved)).symm
  · rw [decode, if_neg reserved]
    exact iff_of_true ⟨_, rfl⟩ (.inr reserved)

/-- Settles O3, by evaluating each of the eight closed equations. -/
theorem workedEncodingsOfTheSpec : Obligations.WorkedEncodingsOfTheSpec := by
  unfold Obligations.WorkedEncodingsOfTheSpec
  decide

end Sys2Proof.Machine
end

section
/-! The stages one by one, and a tick as their sequence: O24, O26 to O30, O33, O34, O11. -/

namespace Sys2Proof.Machine

/-! ### Fetch -/

/-- Settles O24: the three cases in which Fetch leaves the Decode latch alone. -/
theorem fetchIsSuppressedDisabledOrHeld : Obligations.FetchIsSuppressedDisabledOrHeld := by
  intro s
  refine ⟨fun redirect => ?_, fun noRedirect disabled => ?_, fun noRedirect held => ?_⟩
  · simp [fetch, redirect]
  · simp [fetch, noRedirect, disabled]
  · simp [fetch, noRedirect, held]

/-- A pc that is no slot's address fetches nothing (10_state R25). -/
theorem State.fetchSlot_eq_none {s : State} {p : Int} (h : ∀ k : Nat, k < s.code.length → p ≠ s.cfg.codeBase + 4 * (k : Int)) :
    s.fetchSlot p = none := by
  cases slot : s.fetchSlot p with
  | none => rfl
  | some ki =>
    obtain ⟨code, pc⟩ := State.fetchSlot_some slot
    exact absurd pc (h _ (List.getElem?_eq_some_iff.mp code).1)

/-- Settles O26: the marker is what Fetch places where no slot answers. -/
theorem invalidFetchPlacesTheMarker : Obligations.InvalidFetchPlacesTheMarker := by
  intro s noRedirect enabled empty noSlot
  exact ⟨marker s, rfl, rfl, rfl, by simp [fetch, noRedirect, enabled, empty, State.fetchSlot_eq_none noSlot]⟩

/-! ### Decode -/

/-- Settles O27. -/
theorem markerFaultsOnlyWithAnEmptyQueue : Obligations.MarkerFaultsOnlyWithAnEmptyQueue := by
  intro s
  refine ⟨fun empty => ?_, fun occ marked queue => ?_, fun occ marked queue => ?_⟩
  · simp [decodeStage, empty]
  · simp [decodeStage, occ, marked, queue, State.raise]
  · simp [decodeStage, occ, marked, queue]

theorem mem_hazardsOf {i : Instr} {r : Reg} : r ∈ hazardsOf i ↔ r ∈ sourcesOf i ∨ destOf i = some r := by
  rw [hazardsOf, List.mem_append, Option.mem_toList, or_comm]

theorem State.hazard_eq_true {s : State} {i : Instr} : s.hazard i = true ↔ ∃ r ∈ hazardsOf i, s.sb[r] = true :=
  List.any_eq_true

theorem State.hazard_eq_false {s : State} {i : Instr} : s.hazard i = false ↔ ∀ r ∈ hazardsOf i, s.sb[r] = false := by
  simp [State.hazard]

/-- Settles O28. -/
theorem reservedRegisterStallsDispatch : Obligations.ReservedRegisterStallsDispatch := by
  intro s r occ valid phase mem reserved
  have hazard : s.hazard s.d.instr = true := State.hazard_eq_true.mpr ⟨r, mem_hazardsOf.mpr mem, reserved⟩
  simp [decodeStage, occ, valid, phase, hazard]

theorem State.sourceValue_of_source {s : State} {i : Instr} {k : Nat} {r : Reg} (old : Word) (h : (sourcesOf i)[k]? = some r) :
    s.sourceValue i k old = s.x[r] := by
  simp [State.sourceValue, h]

/-- The operand read takes the sources' register values (40_pipeline R135). -/
theorem State.readOperands_operandsFrom (s : State) : s.readOperands.d.toLatch.operandsFrom s.x :=
  ⟨fun _ h => sourceValue_of_source _ h, fun _ h => sourceValue_of_source _ h, fun _ h => sourceValue_of_source _ h⟩

/-- An unchecked instruction without a hazard reads its operands and tries to dispatch (40_pipeline R135, R136). -/
theorem decodeStage_of_clear {s : State} (occ : s.d.occ = true) (valid : s.d.invalid = false) (phase : s.d.phase = .check)
    (clear : s.hazard s.d.instr = false) : decodeStage s = dispatch s.readOperands := by
  simp [decodeStage, occ, valid, phase, clear]

theorem decodeStage_of_awaitUnit {s : State} (occ : s.d.occ = true) (valid : s.d.invalid = false)
    (phase : s.d.phase = .awaitUnit) : decodeStage s = dispatch s := by
  simp [decodeStage, occ, valid, phase]

theorem dispatch_waits {s : State} (full : (s.unit (unitOf s.d.instr)).occ = true) : dispatch s = .next s := by
  rw [dispatch_eq, if_pos full]

/-- Settles O29: the operand read happens before the unit is looked at, and only in phase CHECK. -/
theorem busyUnitStallsWithoutReserving : Obligations.BusyUnitStallsWithoutReserving := by
  intro s occ valid full
  refine ⟨fun phase => ?_, fun phase clear => ?_⟩
  · rw [decodeStage_of_awaitUnit occ valid phase, dispatch_waits full]
  · obtain ⟨a, b, c⟩ := s.readOperands_operandsFrom
    have stall : decodeStage s = .next s.readOperands := by
      rw [decodeStage_of_clear occ valid phase (State.hazard_eq_false.mpr clear), dispatch_waits (by simpa using full)]
    exact ⟨s.readOperands.d, stall, rfl, occ, valid, rfl, rfl, rfl, a, b, c⟩

/-- Decode as it is when it tries to dispatch: with the operands read now or in an earlier tick (40_pipeline R135, R137). -/
def State.decoded (s : State) : State :=
  match s.d.phase with
  | .check => s.readOperands
  | .awaitUnit => s

theorem decodeStage_eq_dispatch {s : State} (occ : s.d.occ = true) (valid : s.d.invalid = false)
    (clear : s.d.phase = .check → s.hazard s.d.instr = false) : decodeStage s = dispatch s.decoded := by
  unfold State.decoded
  cases phase : s.d.phase with
  | check => exact decodeStage_of_clear occ valid phase (clear phase)
  | awaitUnit => exact decodeStage_of_awaitUnit occ valid phase

/-- Decode keeps the instruction, and its operands are the sources' values now or the ones read earlier. -/
theorem State.decoded_latch (s : State) : ∃ l : DecodeLatch, s.decoded = { s with d := l } ∧
    l.instr = s.d.instr ∧ l.seq = s.d.seq ∧ l.pc = s.d.pc ∧ (s.d.phase = .check → l.toLatch.operandsFrom s.x) ∧
    (s.d.phase = .awaitUnit → l = s.d) := by
  unfold State.decoded
  cases phase : s.d.phase with
  | check => exact ⟨s.readOperands.d, rfl, rfl, rfl, rfl, fun _ => s.readOperands_operandsFrom, nofun⟩
  | awaitUnit => exact ⟨s.d, rfl, rfl, rfl, rfl, nofun, fun _ => rfl⟩

/-- With its unit empty the instruction in Decode is dispatched if the queue has room (40_pipeline R138). -/
theorem dispatch_of_room {s : State} (room : (s.unit (unitOf s.d.instr)).occ = false) (notFull : s.rq.length ≠ Config.rqCap) :
    dispatch s = .next (afterDispatch s) := by
  rw [dispatch_eq, if_neg (by simp [room]), if_neg notFull]

theorem dispatch_of_full {s : State} (room : (s.unit (unitOf s.d.instr)).occ = false) (full : s.rq.length = Config.rqCap) :
    dispatch s = .next (s.raise .internalFault (some s.d.seq) none) := by
  rw [dispatch_eq, if_neg (by simp [room]), if_pos full]

@[simp] theorem State.withDecode_unit (s : State) (l : DecodeLatch) (u : UnitId) : ({ s with d := l } : State).unit u = s.unit u := by
  cases u <;> rfl

/-- Settles O30: what `afterDispatch` leaves, with the Decode latch as the operand read left it. -/
theorem dispatchReadsReservesAndQueues : Obligations.DispatchReadsReservesAndQueues := by
  intro s occ valid clear room
  obtain ⟨l, read, hi, hq, hp, fresh, kept⟩ := s.decoded_latch
  have room' : (({ s with d := l } : State).unit (unitOf l.instr)).occ = false := by rw [State.withDecode_unit, hi]; exact room
  rw [decodeStage_eq_dispatch occ valid fun phase => State.hazard_eq_false.mpr (clear phase), read]
  refine ⟨fun full => ?_, fun notFull => ?_⟩
  · rw [dispatch_of_full room' full, ← hq]
    exact ⟨_, rfl, rfl, rfl, rfl, rfl⟩
  · rw [dispatch_of_room room' notFull]
    have own : (afterDispatch { s with d := l }).unit (unitOf s.d.instr) =
        { l.toLatch with count := 0, st := .busy, occ := true } := hi ▸ afterDispatch_own { s with d := l }
    have others : ∀ u, u ≠ unitOf l.instr → (afterDispatch { s with d := l }).unit u = s.unit u := fun u hu => by
      rw [afterDispatch_other hu, State.withDecode_unit]
    have bit (r : Reg) := State.reserve_sb_get { s with d := l } l.instr r
    have sb := afterDispatch_sb { s with d := l }
    have queue : (afterDispatch { s with d := l }).rq = s.rq ++ [l.seq] := rfl
    simp only [hi] at others bit sb
    refine ⟨_, rfl, ?_⟩
    rw [own]
    refine ⟨rfl, rfl, rfl, hi, hq, hp, fresh, fun phase => by simp [kept phase], others, fun r => ?_, hq ▸ queue, rfl, ?_⟩
    · rw [sb, Bool.eq_iff_iff, bit]; simp
    · simp [afterDispatch]

/-! ### The units that count their cycles -/

/-- A DONE instruction behind the queue head waits (40_pipeline R145). -/
theorem handOff_waits {u : UnitId} {s : State} {q : Nat} (head : s.rq.head? = some q) (behind : q ≠ (s.unit u).seq) :
    handOff u s = .next s := by
  have some : s.rq ≠ [] := fun e => by simp [e] at head
  rw [handOff_eq, if_neg some, if_pos (by rw [head]; exact fun e => behind (Option.some.inj e))]

/-- On the final cycle the tick ends with the computation, or goes on to the hand-off. -/
theorem runUnit_final_of_exec {u : UnitId} {lat : Nat} {s t : State} (occ : (s.unit u).occ = true) (st : (s.unit u).st = .busy)
    (last : (s.unit u).count + 1 = lat) (run : exec (s.unit u).instr (s.counted u) = .next t) :
    (t.status ≠ .running → runUnit u lat s = .next t) ∧
      (t.status = .running → runUnit u lat s = handOff u (t.markDone u)) := by
  rw [runUnit_final occ st last, run]
  exact ⟨fun ended => Result.andThen_next_of_not_running _ ended, fun going => Result.andThen_next_of_running _ going⟩

/-- On the final cycle behind the queue head the unit is left DONE. -/
theorem runUnit_final_waits {u : UnitId} {lat q : Nat} {s t : State} (occ : (s.unit u).occ = true) (st : (s.unit u).st = .busy)
    (last : (s.unit u).count + 1 = lat) (run : exec (s.unit u).instr (s.counted u) = .next t) (going : t.status = .running)
    (head : t.rq.head? = some q) (behind : q ≠ (t.unit u).seq) : runUnit u lat s = .next (t.markDone u) := by
  rw [(runUnit_final_of_exec occ st last run).2 going]
  exact handOff_waits (by simpa [State.markDone] using head) (by simpa [State.markDone] using behind)

/-- A DONE unit behind the queue head changes nothing. -/
theorem runUnit_done_waits {u : UnitId} {lat q : Nat} {s : State} (running : s.status = .running) (occ : (s.unit u).occ = true)
    (st : (s.unit u).st = .done) (head : s.rq.head? = some q) (behind : q ≠ (s.unit u).seq) : runUnit u lat s = .next s := by
  rw [runUnit_done occ st running, handOff_waits head behind]

theorem fit_of_toInt (p : OverflowPolicy) (w : Word) : fit p w.toInt = some w := by
  have bounds : minInt ≤ w.toInt ∧ w.toInt ≤ maxInt := by
    have lo := BitVec.le_toInt w
    have hi := BitVec.toInt_lt (x := w)
    simp only [minInt, maxInt]
    omega
  rw [fit_of_inRange p bounds, BitVec.ofInt_toInt]

/-- A product that fits a word is the Multiplier's result, and Z says whether it is 0 (42_multiply R240). -/
theorem exec_mul_of_fits {s : State} (rd rs1 rs2 : Reg) {w : Word} (fits : w.toInt = s.mul.a.toInt * s.mul.b.toInt) :
    exec (.mul rd rs1 rs2) s = .next { s with mul := { s.mul with res := w }, z := decide (w = 0#32) } := by
  show mulArith _ s = _
  rw [mulArith, ← fits, fit_of_toInt]
  rfl

theorem validAddress_of_lt {c : Config} {a : Nat} (h : a < c.dmemSize) : validAddress c a = true :=
  (validAddress_iff _ _).mpr ⟨Int.natCast_nonneg a, Int.ofNat_lt.mpr h⟩

/-- A LOAD in bounds takes the addressed cell (43_load_store R262). -/
theorem exec_load_of_lt {s : State} (rd rs1 : Reg) {imm : Word} {a : Nat} (address : (a : Int) = s.ls.a.toInt + imm.toInt)
    (bound : a < s.cfg.dmemSize) :
    exec (.load rd rs1 imm) s = .next { s with ls := { s.ls with ea := (a : Int), res := Memory.read s.dmem a } } := by
  show loadCell (s.ls.a.toInt + imm.toInt) s = _
  rw [← address]
  exact loadCell_valid (validAddress_of_lt bound)

/-- A STORE in bounds writes its value operand to the addressed cell (43_load_store R264). -/
theorem exec_store_of_lt {s : State} (rs1 rs2 : Reg) {imm : Word} {a : Nat} (address : (a : Int) = s.ls.b.toInt + imm.toInt)
    (bound : a < s.cfg.dmemSize) : exec (.store rs1 rs2 imm) s =
      .next { s with ls := { s.ls with ea := (a : Int) }, dmem := Memory.write s.dmem a s.ls.a } := by
  show storeCell (s.ls.b.toInt + imm.toInt) s.ls.a s = _
  rw [← address]
  exact storeCell_valid _ (validAddress_of_lt bound)

/-- Settles O33: the four forms of `runUnit`, for the Multiplier. -/
theorem multiplierComputesOnItsThirdCycle : Obligations.MultiplierComputesOnItsThirdCycle := by
  intro s running
  have final (h : s.mul.count = 2) : (s.unit .mul).count + 1 = Config.mulLat := congrArg Nat.succ h
  rw [multiply_eq_runUnit]
  refine ⟨fun empty => runUnit_empty empty, fun occ st more => ?_, fun t occ st last run => ?_,
    fun rd rs1 rs2 w h q occ st last instr fits queue behind => ?_, fun occ st => runUnit_done occ st running,
    fun h q occ st queue behind => ?_⟩
  · exact runUnit_count occ st (fun e => more (Nat.succ.inj e)) running
  · exact runUnit_final_of_exec occ st (final last) (by simpa [State.counted, last, State.setUnit] using run)
  · have run := exec_mul_of_fits (s := s.counted .mul) rd rs1 rs2 (w := w) fits
    rw [← instr] at run
    rw [runUnit_final_waits (u := .mul) occ st (final last) run running (congrArg List.head? queue) behind]
    simp [State.counted, State.markDone, State.setUnit, last]
  · exact runUnit_done_waits (u := .mul) running occ st (congrArg List.head? queue) behind

/-- Settles O34: the four forms of `runUnit`, for the Load/Store unit. -/
theorem loadStoreAccessesOnItsFourthCycle : Obligations.LoadStoreAccessesOnItsFourthCycle := by
  intro s running
  have final (h : s.ls.count = 3) : (s.unit .ls).count + 1 = Config.lsLat := congrArg Nat.succ h
  rw [loadStore_eq_runUnit]
  refine ⟨fun empty => runUnit_empty empty, fun occ st more => ?_, fun t occ st last run => ?_,
    fun rs1 rs2 imm a h q occ st last instr address bound queue behind => ?_,
    fun rd rs1 imm a h q occ st last instr address bound queue behind => ?_, fun occ st => runUnit_done occ st running,
    fun h q occ st queue behind => ?_⟩
  · exact runUnit_count occ st (fun e => more (Nat.succ.inj e)) running
  · exact runUnit_final_of_exec occ st (final last) (by simpa [State.counted, last, State.setUnit] using run)
  · have run := exec_store_of_lt (s := s.counted .ls) rs1 rs2 address bound
    rw [← instr] at run
    rw [runUnit_final_waits (u := .ls) occ st (final last) run running (congrArg List.head? queue) behind]
    simp [State.counted, State.markDone, State.setUnit, last]
  · have run := exec_load_of_lt (s := s.counted .ls) rd rs1 address bound
    rw [← instr] at run
    rw [runUnit_final_waits (u := .ls) occ st (final last) run running (congrArg List.head? queue) behind]
    simp [State.counted, State.markDone, State.setUnit, last]
  · exact runUnit_done_waits (u := .ls) running occ st (congrArg List.head? queue) behind

/-! ### The tick -/

theorem writeback_empty {s : State} (empty : s.wb.occ = false) : writeback s = .next s := by simp [writeback, empty]

theorem integer_empty {s : State} (empty : s.int.occ = false) : integer s = .next s := by simp [integer, empty]

theorem loadStore_empty {s : State} (empty : s.ls.occ = false) : loadStore s = .next s := runUnit_empty (u := .ls) empty

theorem multiply_empty {s : State} (empty : s.mul.occ = false) : multiply s = .next s := runUnit_empty (u := .mul) empty

theorem decodeStage_empty {s : State} (empty : s.d.occ = false) : decodeStage s = .next s := by simp [decodeStage, empty]

/-- At the queue head the Integer unit computes and hands off (40_pipeline R150, R151). -/
theorem integer_head {s : State} (occ : s.int.occ = true) (head : s.rq.head? = some s.int.seq) :
    integer s = Result.andThen (exec s.int.instr s) fun t => handOff .int (t.markDone .int) := by
  obtain ⟨q, queue⟩ := List.head?_eq_some_iff.mp head
  simp [integer, occ, queue, State.markDone]

/-- Where a slot answers, Fetch fills the Decode latch from it (40_pipeline R128, R129). -/
theorem fetch_of_slot {s : State} {k : Nat} {i : Instr} (noRedirect : s.redirect = false) (enabled : s.fetchEn = true)
    (empty : s.d.occ = false) (slot : s.fetchSlot s.pc = some (k, i)) : fetch s = .next { s with
      f := { s.f with instr := i, seq := k, pc := s.pc }
      d := fetched s k i
      pc := s.pc + Config.insnBytes
      fetchEn := decide (i ≠ .halt) } := by
  simp [fetch, noRedirect, enabled, empty, slot]

/-- A tick first counts itself (10_state R29). -/
def State.ticked (s : State) : State := { s with clock := s.clock + 1#64 }

section
variable {s : State} (running : s.status = .running) (wb : s.wb.occ = false)
include running wb

/-- With Writeback empty a tick begins with the Load/Store unit. -/
theorem step_of_wb_empty : step s = ((((loadStore s.ticked).andThen multiply).andThen integer).andThen
    decodeStage).andThen fetch := by
  rw [tick_of_running running, ← State.ticked, writeback_empty (s := s.ticked) wb, Result.andThen_next_of_running (s := s.ticked) _ running]

theorem step_of_ls_empty (ls : s.ls.occ = false) : step s =
    (((multiply s.ticked).andThen integer).andThen decodeStage).andThen fetch := by
  rw [step_of_wb_empty running wb, loadStore_empty (s := s.ticked) ls, Result.andThen_next_of_running (s := s.ticked) _ running]

theorem step_of_mul_empty (ls : s.ls.occ = false) (mul : s.mul.occ = false) : step s =
    ((integer s.ticked).andThen decodeStage).andThen fetch := by
  rw [step_of_ls_empty running wb ls, multiply_empty (s := s.ticked) mul, Result.andThen_next_of_running (s := s.ticked) _ running]

/-- With nothing in flight a tick is Decode and Fetch. -/
theorem step_of_none_inFlight (ls : s.ls.occ = false) (mul : s.mul.occ = false) (int : s.int.occ = false) : step s =
    (decodeStage s.ticked).andThen fetch := by
  rw [step_of_mul_empty running wb ls mul, integer_empty (s := s.ticked) int, Result.andThen_next_of_running (s := s.ticked) _ running]

end

/-- The final cycle with the computation, the mark and the hand-off one after the other. -/
theorem runUnit_final_sequence {u : UnitId} {lat : Nat} {s : State} (occ : (s.unit u).occ = true) (st : (s.unit u).st = .busy)
    (last : (s.unit u).count + 1 = lat) : runUnit u lat s =
      (Result.andThen (exec (s.unit u).instr (s.counted u)) fun t => .next (t.markDone u)).andThen (handOff u) := by
  obtain ⟨t, run⟩ := exec_next (s.unit u).instr (s.counted u)
  rw [runUnit_final occ st last, run]
  by_cases going : t.status = .running
  · simp [going, State.markDone]
  · simp [Result.andThen, going]

/-- Settles O11: the stages before the one in question have nothing to do. -/
theorem tickRunsTheFetchedInstruction : Obligations.TickRunsTheFetchedInstruction := by
  refine ⟨fun s k i running wb int mul ls empty noRedirect enabled slot pc => ?_, fun s q running wb mul ls occ queue => ?_,
    fun s running wb ls occ st last => ?_, fun s running wb occ st last => ?_⟩
  · have code : s.ticked.fetchSlot s.ticked.pc = some (k, i) := pc ▸ State.fetchSlot_of_slot slot
    refine ⟨fetched s.ticked k i, rfl, rfl, rfl, rfl, rfl, rfl, ?_⟩
    rw [step_of_none_inFlight running wb ls mul int, decodeStage_empty (s := s.ticked) empty,
      Result.andThen_next_of_running (s := s.ticked) _ running, fetch_of_slot (s := s.ticked) noRedirect enabled empty code]
    rfl
  · rw [step_of_mul_empty running wb ls mul, integer_head (s := s.ticked) occ (congrArg List.head? queue)]
    rfl
  · have counted : s.ticked.counted .mul = { s with clock := s.clock + 1#64, mul := { s.mul with count := 3 } } := by
      simp [State.counted, State.ticked, State.setUnit, last]
    have final : (s.ticked.unit .mul).count + 1 = Config.mulLat := congrArg Nat.succ last
    rw [step_of_ls_empty running wb ls, multiply_eq_runUnit, runUnit_final_sequence (u := .mul) (s := s.ticked) occ st final, counted]
    rfl
  · have counted : s.ticked.counted .ls = { s with clock := s.clock + 1#64, ls := { s.ls with count := 4 } } := by
      simp [State.counted, State.ticked, State.setUnit, last]
    have final : (s.ticked.unit .ls).count + 1 = Config.lsLat := congrArg Nat.succ last
    rw [step_of_wb_empty running wb, loadStore_eq_runUnit, runUnit_final_sequence (u := .ls) (s := s.ticked) occ st final, counted]
    rfl

end Sys2Proof.Machine
end


section
/-! What the queue says of the instructions in flight, and the tick of a core with nothing in flight: O55, O57. -/

namespace Sys2Proof.Machine

/-! ### The queue and the instructions in flight -/

/-- The queue is empty exactly when nothing is in flight (10_state R43 point 2). -/
theorem State.FlightOk.rq_eq_nil_iff {s : State} (f : s.FlightOk) : s.rq = [] ↔ ∀ h, ¬s.inFlight h := by
  obtain ⟨hs, -, mem, rq, -, -⟩ := f.queue
  rw [rq, List.map_eq_nil_iff, List.eq_nil_iff_forall_not_mem]
  exact forall_congr' fun h => not_congr (mem h)

/-- An empty latch leaves the queue room (40_pipeline R182). -/
theorem State.FlightOk.rq_length_lt {s : State} (f : s.FlightOk) {h : Holder} (empty : ¬s.inFlight h) :
    s.rq.length < Config.rqCap := by
  obtain ⟨hs, nodup, mem, rq, -, -⟩ := f.queue
  have all : (h :: hs).Subperm Holder.all :=
    List.subperm_of_subset (List.nodup_cons.mpr ⟨fun hm => empty ((mem h).mp hm), nodup⟩) fun k _ => k.mem_all
  rw [rq, List.length_map]
  exact all.length_le

/-- With nothing in flight no register is reserved. -/
theorem State.FlightOk.hazard_of_none {s : State} (f : s.FlightOk) (none : ∀ h, ¬s.inFlight h) (i : Instr) : s.hazard i = false :=
  State.hazard_eq_false.mpr fun r _ => Bool.eq_false_iff.mpr fun hb => by
    obtain ⟨h, w⟩ := (f.busy r).mp hb
    exact none h w.1

/-! ### The retirement of HALT -/

theorem StageKeeps.not_halted {s t : State} (k : StageKeeps s t) (running : s.status = .running) : t.status ≠ .halted := by
  rcases k.fault with ⟨e, -⟩ | ⟨e, -⟩ <;> rw [e]
  · rw [running]; decide
  · decide

/-- A tick that Writeback has ended leaves what Writeback left (40_pipeline R122). -/
theorem TickStages.eq_of_ended {s t a b c d e : State} (h : TickStages s t a b c d e) (ended : a.status ≠ .running) : t = a := by
  have idle : ∀ {f u v}, StageStep f u v → u.status ≠ .running → v = u := fun h hu => (h.resolve_left fun r => hu r.1).2
  obtain rfl := idle h.loadStore ended
  obtain rfl := idle h.multiply ended
  obtain rfl := idle h.integer ended
  obtain rfl := idle h.decode ended
  exact idle h.fetch ended

/-- Only the retirement of HALT ends a tick HALTED, and it is the last thing the tick does (40_pipeline R166). -/
theorem step_halted {s t : State} (running : s.status = .running) (h : step s = .next t) (halted : t.status = .halted) :
    s.wb.occ = true ∧ s.wb.instr = .halt ∧ t = afterRetire s.ticked := by
  obtain ⟨a, b, c, d, e, st⟩ := step_stages running h
  have ended : a.status ≠ .running := fun ra => st.keeps.not_halted ra halted
  obtain rfl := st.eq_of_ended ended
  cases writeback_tick st.writeback with
  | idle _ => exact absurd running ended
  | fault => cases halted
  | retire occ _ =>
    refine ⟨occ, ?_, rfl⟩
    by_contra other
    exact ended (by simp [afterRetire, other, running])

/-- Settles O55: a HALT in Writeback is alone, so its retirement leaves nothing in flight. -/
theorem haltRetiresAlone : Obligations.HaltRetiresAlone := by
  intro s t h hstep halted
  obtain ⟨occ, instr, rfl⟩ := step_halted h.running hstep halted
  obtain ⟨-, d, int, mul, ls⟩ := h.haltInWb occ instr
  have flight : (afterRetire s.ticked).FlightOk := afterRetire_flightOk (h.withClock _).flightOk occ
  have none : ∀ j, ¬(afterRetire s.ticked).inFlight j := fun j o => by
    cases j with
    | wb => cases o
    | int => exact absurd (int.symm.trans o) (by decide)
    | mul => exact absurd (mul.symm.trans o) (by decide)
    | ls => exact absurd (ls.symm.trans o) (by decide)
  exact ⟨instr, flight.rq_eq_nil_iff.mpr none, d, int, mul, ls, rfl⟩

/-! ### A tick with nothing in flight -/

/-- Fetch writes the fetch state and the Decode latch only, and that latch only when it is empty (40_pipeline R125 to R130). -/
theorem fetch_eq_with {s t : State} (h : fetch s = .next t) : ∃ f d p e r,
    t = { s with f := f, d := d, pc := p, fetchEn := e, redirect := r } ∧ (s.d.occ = true → d = s.d) := by
  rcases fetch_cases s with ⟨-, e⟩ | ⟨-, -, e⟩ | ⟨-, -, o, _, _, -, e⟩ | ⟨-, -, o, -, e⟩ <;> rw [e] at h <;> cases h
  · exact ⟨_, _, _, _, _, rfl, fun _ => rfl⟩
  · exact ⟨_, _, _, _, _, rfl, fun _ => rfl⟩
  · exact ⟨_, _, _, _, _, rfl, fun hd => by rw [o] at hd; cases hd⟩
  · exact ⟨_, _, _, _, _, rfl, fun hd => by rw [o] at hd; cases hd⟩

theorem fetch_status {s t : State} (h : fetch s = .next t) : t.status = s.status := by
  obtain ⟨f, d, p, e, r, rfl, -⟩ := fetch_eq_with h
  rfl

theorem State.Inv.step_of_rq_nil {s : State} (h : s.Inv) (queue : s.rq = []) :
    step s = (decodeStage s.ticked).andThen fetch := by
  have none := h.flightOk.rq_eq_nil_iff.mp queue
  have empty : ∀ j, (s.held j).occ = false := fun j => Bool.eq_false_iff.mpr (none j)
  exact step_of_none_inFlight h.running (empty .wb) (empty .ls) (empty .mul) (empty .int)

/-- From `s` to `t` the instruction in Decode has been dispatched and is alone in flight (40_pipeline R135 to R142). -/
structure Launched (s t : State) : Prop where
  running : t.status = .running
  rq : t.rq = [s.d.seq]
  occ : (t.unit (unitOf s.d.instr)).occ = true
  st : (t.unit (unitOf s.d.instr)).st = .busy
  count : (t.unit (unitOf s.d.instr)).count = 0
  instr : (t.unit (unitOf s.d.instr)).instr = s.d.instr
  seq : (t.unit (unitOf s.d.instr)).seq = s.d.seq
  operands : s.d.phase = .check → (t.unit (unitOf s.d.instr)).operandsFrom s.x
  others : ∀ u, u ≠ unitOf s.d.instr → (t.unit u).occ = false
  wb : t.wb.occ = false
  reserved : ∀ r, destOf s.d.instr = some r → t.sb[r] = true
  cfg : t.cfg = s.cfg
  x : t.x = s.x
  z : t.z = s.z
  dmem : t.dmem = s.dmem
  retired : t.retired = s.retired
  clock : t.clock = s.clock + 1#64

/-- With an empty queue a valid instruction in Decode is dispatched (40_pipeline R186). -/
theorem State.Inv.step_launches {s : State} (h : s.Inv) (queue : s.rq = []) (occ : s.d.occ = true) (valid : s.d.invalid = false) :
    ∃ t, step s = .next t ∧ Launched s t := by
  have none := h.flightOk.rq_eq_nil_iff.mp queue
  have clear := State.hazard_eq_false.mp (h.flightOk.hazard_of_none none s.d.instr)
  have empty : ∀ u, (s.unit u).occ = false := fun u => Bool.eq_false_iff.mpr fun o => none u.holder (by simpa using o)
  have notFull : s.rq.length ≠ 4 := by simp [queue]
  obtain ⟨e, dec, uocc, ust, ucount, uinstr, useq, -, fresh, -, others, sb, rq, -, x, z, -, dmem, wb, status, -, -, -, clock, retired⟩ :=
    (dispatchReadsReservesAndQueues s.ticked occ valid (fun _ => clear) (empty _)).2 notFull
  obtain ⟨t, ft⟩ := fetch_next e
  have running : e.status = .running := status.trans h.running
  refine ⟨t, by rw [h.step_of_rq_nil queue, dec, Result.andThen_next_of_running _ running, ft], ?_⟩
  have cfg : e.cfg = s.cfg := (decode_keeps (s := s.ticked) (.inl ⟨h.running, dec⟩)).cfg
  have units := (fetch_keeps (.inl ⟨running, ft⟩)).unit
  obtain ⟨f, d, p, en, r, rfl, -⟩ := fetch_eq_with ft
  have hwb : s.wb.occ = false := Bool.eq_false_iff.mpr (none .wb)
  rw [← units] at uocc ust ucount uinstr useq fresh
  exact {
    running := running
    rq := by rw [show s.ticked.rq = [] from queue] at rq; exact rq
    occ := uocc
    st := ust
    count := ucount
    instr := uinstr
    seq := useq
    operands := fresh
    others := fun u hu => by rw [units, others u hu]; exact empty u
    wb := by rw [← hwb]; exact congrArg Latch.occ wb
    reserved := fun r hr => by rw [show _ = _ from sb r]; simp [State.ticked, hr]
    cfg := cfg
    x := x
    z := z
    dmem := dmem
    retired := retired
    clock := clock }

/-- Settles O57. -/
theorem emptyQueueMakesProgress : Obligations.EmptyQueueMakesProgress := by
  intro s h queue
  refine ⟨fun occ valid => ?_, fun occ marked => ?_, fun empty => ?_⟩
  · obtain ⟨t, hstep, launched⟩ := h.step_launches queue occ valid
    exact ⟨t, hstep, launched.running, launched.rq, launched.instr⟩
  · have fault := (markerFaultsOnlyWithAnEmptyQueue s.ticked).2.1 occ marked queue
    rw [h.step_of_rq_nil queue, fault, Result.andThen_next_of_not_running _ (by simp)]
    exact ⟨_, _, rfl, rfl, rfl, rfl, rfl⟩
  · have none := h.flightOk.rq_eq_nil_iff.mp queue
    have enabled : s.fetchEn = true := by
      by_contra disabled
      rcases h.stopHasCause (Bool.eq_false_iff.mpr disabled) with ⟨o, -⟩ | ⟨o, -⟩ | ⟨o, -⟩
      · rw [empty] at o; cases o
      · exact none .int o
      · exact none .wb o
    rw [h.step_of_rq_nil queue, decodeStage_empty (s := s.ticked) empty, Result.andThen_next_of_running (s := s.ticked) _ h.running]
    rcases fetch_cases s.ticked with ⟨r, -⟩ | ⟨-, stop, -⟩ | ⟨-, -, -, k, i, -, e⟩ | ⟨-, -, -, -, e⟩
    · exact absurd (r.symm.trans h.noRedirect) (by decide)
    · exact absurd stop (by simp [State.ticked, enabled, empty])
    · exact ⟨_, e, h.running, rfl⟩
    · exact ⟨_, e, h.running, rfl⟩

end Sys2Proof.Machine
end


section
/-! A register that retires in a tick is free and readable for Decode in the same tick: O51. -/

namespace Sys2Proof.Machine

/-- An occupied Writeback latch holds the instruction at the queue head (40_pipeline R165). -/
theorem State.Inv.wb_head {s : State} (h : s.Inv) (occ : s.wb.occ = true) : s.rq.head? = some s.wb.seq := by
  obtain ⟨hs, o⟩ := h.queue
  obtain ⟨rest, rfl, -⟩ := o.wb_first occ
  rw [o.2.2.1]
  rfl

theorem State.Inv.writeback_retires {s : State} (h : s.Inv) (occ : s.wb.occ = true) :
    writeback s.ticked = .next (afterRetire s.ticked) := Machine.writeback_retires occ (h.wb_head occ)

/-- In a core that meets the invariant a tick begins with the retirement of the instruction in Writeback. -/
theorem TickStages.eq_afterRetire {s t a b c d e : State} (st : TickStages s t a b c d e) (h : s.Inv) (occ : s.wb.occ = true) :
    a = afterRetire s.ticked :=
  Host.Outcome.next.inj (st.writeback.symm.trans (h.writeback_retires occ))

/-- The Integer unit flushes the Decode latch for a branch only (40_pipeline R170). -/
theorem integer_d {s t : State} (h : StageStep integer s t) (notBranch : s.int.occ = true → isBranch s.int.instr = false) :
    t.d = s.d := by
  refine h.lift (R := fun s t => (s.int.occ = true → isBranch s.int.instr = false) → t.d = s.d) (fun _ => rfl) (fun _ h nb => ?_)
    notBranch
  cases integer_tick h with
  | idle _ => rfl
  | noQueue => rfl
  | fault occ _ run _ => exact ((exec_effect run).others (nb occ)).d
  | compute occ _ run _ off => exact (off.others.d.trans (by simp [State.markDone])).trans ((exec_effect run).others (nb occ)).d

/-- With no branch in the Integer unit Decode finds the instruction that was there when the tick began. -/
theorem TickStages.decode_kept {s t a b c d e : State} (st : TickStages s t a b c d e) (routed : s.routed)
    (notBranch : s.int.occ = true → isBranch s.int.instr = false) : d.d = s.d := by
  have w := st.writebackKeeps
  have hb := w.routed routed
  have before := st.beforeInteger routed
  calc d.d = c.d := integer_d st.integer (by rw [before.int]; exact notBranch)
    _ = b.d := (multiply_others st.multiply ((loadStore_keeps st.loadStore).routed hb)).d
    _ = a.d := (loadStore_others st.loadStore hb).d
    _ = s.d := w.d

/-- The instruction of `l` has passed its hazard check: it is in its unit and last in the queue, or waits for its unit, with its
operands read (40_pipeline R135 to R142). -/
def State.Passed (t : State) (l : DecodeLatch) : Prop :=
  (t.rq.getLast? = some l.seq ∧ (t.unit (unitOf l.instr)).occ = true ∧
      (t.unit (unitOf l.instr)).instr = l.instr ∧ (t.unit (unitOf l.instr)).seq = l.seq ∧
      (t.unit (unitOf l.instr)).operandsFrom t.x ∧ (∀ d, destOf l.instr = some d → t.sb[d] = true)) ∨
    (t.d.occ = true ∧ t.d.invalid = false ∧ t.d.phase = .awaitUnit ∧ t.d.instr = l.instr ∧ t.d.seq = l.seq ∧
      t.d.operandsFrom t.x ∧ (∀ r ∈ hazardsOf l.instr, t.sb[r] = false) ∧ (t.unit (unitOf l.instr)).occ = true)

/-- Decode passes an instruction without a hazard in the tick. -/
theorem passed_of_clear {s t : State} (occ : s.d.occ = true) (valid : s.d.invalid = false) (phase : s.d.phase = .check)
    (clear : s.hazard s.d.instr = false) (h : decodeStage s = .next t) (running : t.status = .running) : t.Passed s.d := by
  rw [decodeStage_of_clear occ valid phase clear] at h
  cases dispatch_effect h with
  | wait full =>
    exact .inr ⟨occ, valid, rfl, rfl, rfl, s.readOperands_operandsFrom, State.hazard_eq_false.mp clear, by simpa using full⟩
  | fault => cases running
  | go room =>
    have own := afterDispatch_own s.readOperands
    have keeps := DecodeKeeps.afterDispatch s.readOperands
    rw [State.readOperands_d_instr] at own
    refine .inl ⟨by simp [afterDispatch], ?_, ?_, ?_, ?_, fun r hr => ?_⟩
    · rw [own]
    · rw [own]; rfl
    · rw [own]; rfl
    · rw [own, keeps.x]; exact s.readOperands_operandsFrom
    · rw [afterDispatch_sb, State.reserve_sb_get]; exact .inr hr

/-- Fetch leaves a passed instruction as it is. -/
theorem State.Passed.fetch {s t : State} {l : DecodeLatch} (p : s.Passed l) (h : fetch s = .next t) : t.Passed l := by
  obtain ⟨f, d, pc, e, r, rfl, kept⟩ := fetch_eq_with h
  have unit (u : UnitId) : ({ s with f := f, d := d, pc := pc, fetchEn := e, redirect := r } : State).unit u = s.unit u := by
    cases u <;> rfl
  rcases p with p | ⟨occ, p⟩
  · exact .inl (by simpa only [unit] using p)
  · obtain rfl := kept occ
    exact .inr ⟨occ, by simpa only [unit] using p⟩

/-- Settles O51: Writeback has freed and written the register before Decode looks at it. -/
theorem retiredRegisterIsReadableInTheSameTick : Obligations.RetiredRegisterIsReadableInTheSameTick := by
  intro s t r h wbOcc dest occ valid phase hazard free notBranch hstep running
  obtain ⟨a, b, c, d, e, st⟩ := step_stages h.running hstep
  obtain ⟨re, fetch⟩ := st.fetch.of_running running
  obtain ⟨rd, decode⟩ := st.decode.of_running re
  obtain rfl := st.eq_afterRetire h wbOcc
  have latch : d.d = s.d := st.decode_kept (State.routed_of_inv h) notBranch
  have sb : d.sb = s.ticked.commitResult.sb := st.unitsKeep.sb
  have x : t.x = s.x.set r s.wb.res := by
    rw [st.keeps.x]
    show s.ticked.commitResult.x = _
    rw [State.commitResult_x]
    simp [State.ticked, dest]
  have clear : d.hazard s.d.instr = false := State.hazard_eq_false.mpr fun p hp => Bool.eq_false_iff.mpr fun busy => by
    rw [sb, State.commitResult_sb_get] at busy
    by_cases hpr : p = r
    · exact busy.2 (hpr ▸ dest)
    · exact absurd busy.1 (by simp [State.ticked, free p hp hpr])
  rw [← latch] at occ valid phase clear
  have passed := (passed_of_clear occ valid phase clear decode re).fetch fetch
  rw [latch] at passed
  refine ⟨x, passed.imp_right ?_⟩
  rintro ⟨o, v, p, i, q, operands, free, full⟩
  exact ⟨o, v, p, i, q, operands, free r hazard, full⟩

end Sys2Proof.Machine
end


section
/-! PROOF SUPPORT. The tick of a core whose oldest instruction is in a unit (40_pipeline R120, R145, R150 to R162). Every other unit
only waits in that tick, whatever it computes (`Waits`, `Bystanders`); so the tick is the waiting of the units before it, its own
turn, the waiting of the units after it, and then Decode and Fetch (`HeadTick`). -/

namespace Sys2Proof.Machine

/-! ### A unit that does not hold the queue head -/

/-- The stage of a unit in a tick. -/
def unitStage : UnitId → State → Result
  | .int => integer
  | .mul => multiply
  | .ls => loadStore

/-- The unit computes in this tick wherever its instruction stands in the queue (40_pipeline R156, R160). -/
def State.finalCycle (s : State) : UnitId → Prop
  | .int => False
  | .mul => s.mul.occ = true ∧ s.mul.st = .busy ∧ s.mul.count + 1 = Config.mulLat
  | .ls => s.ls.occ = true ∧ s.ls.st = .busy ∧ s.ls.count + 1 = Config.lsLat

theorem State.finalCycle_congr {s t : State} {v : UnitId} (h : t.unit v = s.unit v) (f : t.finalCycle v) : s.finalCycle v := by
  cases v with
  | int => exact f
  | mul => rw [State.unit_mul, State.unit_mul] at h; rwa [State.finalCycle, ← h]
  | ls => rw [State.unit_ls, State.unit_ls] at h; rwa [State.finalCycle, ← h]

/-- The unit's computation on its final cycle has ended the tick in `t`. -/
structure EndedBy (v : UnitId) (s t : State) : Prop where
  final : s.finalCycle v
  ended : t.status ≠ .running
  run : ∃ m : State, m.status = .running ∧ m.unit v = s.unit v ∧ exec (s.unit v).instr (m.counted v) = .next t

/-- The queue is not empty, and its head is in no unit but `u`. -/
structure State.HeadIn (s : State) (u : UnitId) : Prop where
  queue : s.rq ≠ []
  behind : ∀ v, v ≠ u → (s.unit v).occ = true → s.rq.head? ≠ some (s.unit v).seq

/-- A turn of unit `v` that hands nothing off. -/
structure Waits (v : UnitId) (s t : State) : Prop extends UnitsKeep s t where
  unit : ∀ w, w ≠ v → t.unit w = s.unit w
  wb : t.wb = s.wb
  occ : (t.unit v).occ = (s.unit v).occ
  seq : (t.unit v).seq = (s.unit v).seq
  z : t.z = s.z ∨ s.finalCycle v
  dmem : v ≠ .ls → t.dmem = s.dmem
  going : t.status = .running ∨ EndedBy v s t

theorem Waits.refl {v : UnitId} {s : State} (running : s.status = .running) : Waits v s s :=
  ⟨.refl s, fun _ _ => rfl, rfl, rfl, rfl, .inl rfl, fun _ => rfl, .inl running⟩

/-- A change of the unit's own latch that keeps its instruction. -/
theorem Waits.setUnit {v : UnitId} {s : State} {l : Latch} (running : s.status = .running) (occ : l.occ = (s.unit v).occ)
    (seq : l.seq = (s.unit v).seq) (instr : l.instr = (s.unit v).instr) : Waits v s (s.setUnit v l) :=
  ⟨.setUnit s v l fun o => ⟨occ ▸ o, instr⟩, fun _ hw => State.setUnit_unit_of_ne s l hw, by simp, by simp [occ], by simp [seq],
    .inl (by simp), fun _ => by simp, .inl (by simp [running])⟩

section
variable {v : UnitId} {lat : Nat} {s t : State}

/-- The computation on the final cycle, marked DONE unless it ended the tick. -/
theorem Waits.of_exec {w : State} (running : s.status = .running) (final : s.finalCycle v) (route : unitOf (s.unit v).instr = v)
    (notInt : v ≠ .int) (run : exec (s.unit v).instr (s.counted v) = .next w)
    (ht : t = w ∧ w.status ≠ .running ∨ t = w.markDone v ∧ w.status = .running) : Waits v s t := by
  have e := exec_effect run
  have others := e.others (isBranch_of_unitOf (by rw [route]; exact notInt))
  obtain ⟨r, ea, own⟩ := e.own
  rw [route] at others own
  have keeps : UnitsKeep s w := (UnitsKeep.counted s v).trans e.keeps
  have unit : ∀ x, x ≠ v → w.unit x = s.unit x := fun x hx => by
    rw [others.unit x hx, State.counted, State.setUnit_unit_of_ne _ _ hx]
  have wb : w.wb = s.wb := by rw [e.wb]; simp [State.counted]
  have dmem : v ≠ .ls → w.dmem = s.dmem := fun hv => by
    rw [(exec_dmem run).resolve_right fun stored => hv (route.symm.trans stored.unitOf_eq)]
    simp [State.counted]
  rcases ht with ⟨rfl, ended⟩ | ⟨rfl, going⟩
  · exact ⟨keeps, unit, wb, by rw [own]; simp [State.counted], by rw [own]; simp [State.counted],
      .inr final, dmem, .inr ⟨final, ended, s, running, rfl, run⟩⟩
  · refine ⟨keeps.trans (.markDone w v), fun x hx => ?_, by simp [State.markDone, wb], ?_, ?_, .inr final,
      fun hv => by simp [State.markDone, dmem hv], .inl (by simp [State.markDone, going])⟩
    · rw [State.markDone, State.setUnit_unit_of_ne _ _ hx, unit x hx]
    · simp [State.markDone, own, State.counted]
    · simp [State.markDone, own, State.counted]

theorem runUnit_waits (running : s.status = .running) (notInt : v ≠ .int)
    (route : (s.unit v).occ = true → unitOf (s.unit v).instr = v) (queue : s.rq ≠ [])
    (behind : (s.unit v).occ = true → s.rq.head? ≠ some (s.unit v).seq)
    (final : (s.unit v).occ = true → (s.unit v).st = .busy → (s.unit v).count + 1 = lat → s.finalCycle v)
    (h : runUnit v lat s = .next t) : Waits v s t := by
  obtain ⟨q, qs, hq⟩ := List.exists_cons_of_ne_nil queue
  have head : s.rq.head? = some q := by rw [hq]; rfl
  cases occ : (s.unit v).occ with
  | false => rw [runUnit_empty occ] at h; cases h; exact .refl running
  | true =>
    have later : q ≠ (s.unit v).seq := fun e => behind occ (e ▸ head)
    cases st : (s.unit v).st with
    | free => rw [runUnit_free st running] at h; cases h; exact .refl running
    | busy =>
      by_cases last : (s.unit v).count + 1 = lat
      · obtain ⟨w, run⟩ := exec_next (s.unit v).instr (s.counted v)
        have wait := Waits.of_exec (t := t) running (final occ st last) (route occ) notInt run
        by_cases going : w.status = .running
        · have k := (exec_effect run).keeps
          obtain ⟨r, ea, own⟩ := (exec_effect run).own
          rw [route occ] at own
          rw [runUnit_final_waits occ st last run going (q := q) (by rw [k.rq]; simpa [State.counted] using head)
            (by rw [own]; simpa [State.counted] using later)] at h
          cases h
          exact wait (.inr ⟨rfl, going⟩)
        · rw [(runUnit_final_of_exec occ st last run).1 going] at h
          cases h
          exact wait (.inl ⟨rfl, going⟩)
      · rw [runUnit_count occ st last running] at h
        cases h
        exact .setUnit running rfl rfl rfl
    | done => rw [runUnit_done_waits running occ st head later] at h; cases h; exact .refl running

/-- The Integer unit computes nothing behind the queue head (40_pipeline R151). -/
theorem integer_waits (queue : s.rq ≠ []) (behind : s.int.occ = true → s.rq.head? ≠ some s.int.seq) : integer s = .next s := by
  rcases integer_cases s with ⟨-, e⟩ | ⟨-, none, -⟩ | ⟨occ, q, qs, hq, ⟨-, e⟩ | ⟨rfl, -⟩⟩
  · exact e
  · exact absurd none queue
  · exact e
  · exact absurd (by rw [hq]; rfl) (behind occ)

/-- A unit that does not hold the queue head waits. -/
theorem unitStage_waits {u : UnitId} (running : s.status = .running) (routed : s.routed) (head : s.HeadIn u) (hv : v ≠ u)
    (h : unitStage v s = .next t) : Waits v s t := by
  have route := State.routed_iff.mp routed v
  have behind := head.behind v hv
  cases v with
  | int => cases (integer_waits head.queue behind).symm.trans h; exact .refl running
  | mul => exact runUnit_waits running (by decide) route head.queue behind (fun o b c => ⟨o, b, c⟩) (multiply_eq_runUnit s ▸ h)
  | ls => exact runUnit_waits running (by decide) route head.queue behind (fun o b c => ⟨o, b, c⟩) (loadStore_eq_runUnit s ▸ h)

end

/-! ### Several units that do not hold the queue head -/

/-- The turns of the units `vs`, none of which holds the queue head; that is in `u` or in no unit. -/
structure Bystanders (u : UnitId) (vs : List UnitId) (s t : State) : Prop extends UnitsKeep s t where
  rest : ∀ v, v ∉ vs → t.unit v = s.unit v
  wb : t.wb = s.wb
  head : t.HeadIn u
  occ : ∀ v, v ≠ u → (t.unit v).occ = (s.unit v).occ
  z : t.z = s.z ∨ ∃ v ∈ vs, s.finalCycle v
  dmem : .ls ∉ vs → t.dmem = s.dmem
  going : t.status = .running ∨ ∃ v ∈ vs, EndedBy v s t

theorem Bystanders.refl {u : UnitId} {s : State} (running : s.status = .running) (head : s.HeadIn u) : Bystanders u [] s s :=
  ⟨.refl s, fun _ _ => rfl, rfl, head, fun _ _ => rfl, .inl rfl, fun _ => rfl, .inl running⟩

theorem Bystanders.mono {u : UnitId} {vs ws : List UnitId} {s t : State} (b : Bystanders u vs s t) (sub : vs ⊆ ws) :
    Bystanders u ws s t :=
  { b with
    rest := fun v hv => b.rest v fun h => hv (sub h)
    z := b.z.imp_right fun ⟨v, hv, f⟩ => ⟨v, sub hv, f⟩
    dmem := fun hv => b.dmem fun h => hv (sub h)
    going := b.going.imp_right fun ⟨v, hv, e⟩ => ⟨v, sub hv, e⟩ }

theorem EndedBy.congr {v : UnitId} {s t w : State} (same : t.unit v = s.unit v) (h : EndedBy v t w) : EndedBy v s w := by
  obtain ⟨final, ended, m, running, own, run⟩ := h
  exact ⟨State.finalCycle_congr same final, ended, m, running, own.trans same, by rw [← same]; exact run⟩

/-- One more unit waits. -/
theorem Bystanders.waits {u v : UnitId} {vs : List UnitId} {s t w : State} (b : Bystanders u vs s t) (new : v ∉ vs)
    (k : Waits v t w) : Bystanders u (v :: vs) s w := by
  have same := b.rest v new
  have occ : ∀ x, (w.unit x).occ = (t.unit x).occ := fun x => by
    by_cases e : x = v
    · subst e; exact k.occ
    · rw [k.unit x e]
  have seq : ∀ x, (w.unit x).seq = (t.unit x).seq := fun x => by
    by_cases e : x = v
    · subst e; exact k.seq
    · rw [k.unit x e]
  refine ⟨b.toUnitsKeep.trans k.toUnitsKeep, fun x hx => ?_, k.wb.trans b.wb, ⟨?_, fun x hx => ?_⟩,
    fun x hx => (occ x).trans (b.occ x hx), ?_, fun hx => ?_, ?_⟩
  · obtain ⟨ne, old⟩ := List.ne_and_not_mem_of_not_mem_cons hx
    rw [k.unit x ne, b.rest x old]
  · rw [k.rq]; exact b.head.queue
  · rw [k.rq, occ, seq]; exact b.head.behind x hx
  · rcases k.z with e | final
    · rw [e]; exact (b.mono (List.subset_cons_self v vs)).z
    · exact .inr ⟨v, List.mem_cons_self, State.finalCycle_congr same final⟩
  · obtain ⟨ne, old⟩ := List.ne_and_not_mem_of_not_mem_cons hx
    exact (k.dmem (Ne.symm ne)).trans (b.dmem old)
  · exact k.going.imp_right fun e => ⟨v, List.mem_cons_self, e.congr same⟩

/-- One more unit takes its turn, if the tick is still going. -/
theorem Bystanders.turn {u v : UnitId} {vs : List UnitId} {s t w : State} (b : Bystanders u vs s t) (routed : s.routed) (hv : v ≠ u)
    (new : v ∉ vs) (h : StageStep (unitStage v) t w) : Bystanders u (v :: vs) s w := by
  obtain ⟨running, h⟩ | ⟨-, rfl⟩ := h
  · exact b.waits new (unitStage_waits running (b.toUnitsKeep.routed routed) b.head hv h)
  · exact b.mono (List.subset_cons_self v vs)

/-! ### The turn of the unit that holds the queue head -/

theorem unitStage_keeps {v : UnitId} {s t : State} (h : StageStep (unitStage v) s t) : UnitsKeep s t := by
  cases v with
  | int => exact integer_keeps h
  | mul => exact multiply_keeps h
  | ls => exact loadStore_keeps h

theorem integer_unit {s t : State} (h : StageStep integer s t) (routed : s.routed) {v : UnitId} (hv : v ≠ .int) :
    t.unit v = s.unit v := by
  have run : ∀ {w : State}, s.int.occ = true → exec s.int.instr s = .next w → w.unit v = s.unit v := fun occ e =>
    (exec_effect e).unit v (by rw [routed.1 occ]; exact hv)
  refine h.lift (R := fun s t => (∀ {w : State}, s.int.occ = true → exec s.int.instr s = .next w → w.unit v = s.unit v) →
    t.unit v = s.unit v) (fun _ => rfl) (fun _ h run => ?_) run
  cases integer_tick h with
  | idle _ => rfl
  | noQueue => simp
  | fault occ _ e _ => exact run occ e
  | compute occ _ e _ off => rw [off.others.unit v hv, State.markDone, State.setUnit_unit_of_ne _ _ hv, run occ e]

/-- The turn of a unit leaves every other unit's latch alone. -/
theorem unitStage_unit {v w : UnitId} {s t : State} (h : StageStep (unitStage v) s t) (routed : s.routed) (hw : w ≠ v) :
    t.unit w = s.unit w := by
  cases v with
  | int => exact integer_unit h routed hw
  | mul => exact (multiply_others h routed).unit w hw
  | ls => exact (loadStore_others h routed).unit w hw

/-- The cycles a unit spends on an instruction that is at the queue head all the while (00_scope R7, 40_pipeline R150). -/
def latency : UnitId → Nat
  | .int => 1
  | .mul => Config.mulLat
  | .ls => Config.lsLat

/-- The state in which a unit computes: its last cycle counted (40_pipeline R150, R155, R160; log 15). -/
def State.computing (s : State) : UnitId → State
  | .int => s
  | .mul => s.counted .mul
  | .ls => s.counted .ls

section
variable {u : UnitId} {s : State}

theorem State.computing_sameInstr (s : State) (u : UnitId) : SameInstr ((s.computing u).unit u) (s.unit u) := by
  cases u <;> exact ⟨rfl, fun _ => ⟨rfl, rfl, rfl⟩⟩

/-- A unit that computes holds the same instruction afterwards. -/
theorem exec_computing_sameInstr {v : State} (route : unitOf (s.unit u).instr = u)
    (run : exec (s.unit u).instr (s.computing u) = .next v) : SameInstr (v.unit u) (s.unit u) := by
  obtain ⟨r, ea, own⟩ := (exec_effect run).own
  rw [route] at own
  rw [own]
  exact s.computing_sameInstr u

theorem handOff_moves (head : s.rq.head? = some (s.unit u).seq) (room : s.wb.occ = false) : handOff u s = .next (s.handedOff u) := by
  have queue : s.rq ≠ [] := fun e => by simp [e] at head
  rw [handOff_eq, if_neg queue, if_neg (not_not_intro head), if_neg (by simp [room])]

theorem unitStage_count (running : s.status = .running) (notInt : u ≠ .int) (occ : (s.unit u).occ = true)
    (busy : (s.unit u).st = .busy) (more : (s.unit u).count + 1 ≠ latency u) : unitStage u s = .next (s.counted u) := by
  cases u with
  | int => exact absurd rfl notInt
  | mul => exact runUnit_count occ busy more running
  | ls => exact runUnit_count occ busy more running

theorem unitStage_done (running : s.status = .running) (notInt : u ≠ .int) (occ : (s.unit u).occ = true)
    (done : (s.unit u).st = .done) (head : s.rq.head? = some (s.unit u).seq) (room : s.wb.occ = false) :
    unitStage u s = .next (s.handedOff u) := by
  rw [← handOff_moves head room]
  cases u with
  | int => exact absurd rfl notInt
  | mul => exact runUnit_done occ done running
  | ls => exact runUnit_done occ done running

/-- The unit computes in this turn: on its last cycle, and the Integer unit at once (40_pipeline R151, R155, R160). -/
def State.lastCycle (s : State) (u : UnitId) : Prop :=
  u ≠ .int → (s.unit u).st = .busy ∧ (s.unit u).count + 1 = latency u

theorem unitStage_last (occ : (s.unit u).occ = true) (last : s.lastCycle u) (head : s.rq.head? = some (s.unit u).seq) :
    unitStage u s = Result.andThen (exec (s.unit u).instr (s.computing u)) fun v => handOff u (v.markDone u) := by
  cases u with
  | int => exact integer_head occ head
  | mul => exact runUnit_final occ (last (by decide)).1 (last (by decide)).2
  | ls => exact runUnit_final occ (last (by decide)).1 (last (by decide)).2

/-- At the queue head, with Writeback empty, what a unit computes goes to Writeback in the same turn. -/
theorem unitStage_computes {v : State} (occ : (s.unit u).occ = true) (last : s.lastCycle u)
    (head : s.rq.head? = some (s.unit u).seq) (room : s.wb.occ = false) (route : unitOf (s.unit u).instr = u)
    (run : exec (s.unit u).instr (s.computing u) = .next v) (going : v.status = .running) :
    unitStage u s = .next ((v.markDone u).handedOff u) := by
  have e := exec_effect run
  have rq : v.rq = s.rq := e.keeps.rq.trans (by cases u <;> simp [State.computing, State.counted])
  have wb : v.wb = s.wb := e.wb.trans (by cases u <;> simp [State.computing, State.counted])
  obtain ⟨-, seq, -⟩ := (exec_computing_sameInstr route run).2 occ
  rw [unitStage_last occ last head, run, Result.andThen_next_of_running _ going]
  exact handOff_moves (by simp [State.markDone, rq, head, seq]) (by simp [State.markDone, wb, room])

end

/-! ### Decode and Fetch -/

/-- A unit's latch as it was, or an instruction that has just entered it. -/
def KeptOrEntered (u : UnitId) (s t : State) : Prop :=
  t.unit u = s.unit u ∨ ((s.unit u).occ = false ∧ (t.unit u).count = 0)

theorem Dispatch.keptOrEntered {s t : State} (h : Dispatch s t) (u : UnitId) : KeptOrEntered u s t := by
  cases h with
  | wait _ => exact .inl rfl
  | fault => exact .inl (by simp)
  | go room =>
    by_cases hu : u = unitOf s.d.instr
    · subst hu; exact .inr ⟨room, by rw [afterDispatch_own]⟩
    · exact .inl (afterDispatch_other hu)

/-- Decode changes a unit's latch only by a dispatch into an empty one (40_pipeline R136, R138). -/
theorem decode_unit {s t : State} (h : StageStep decodeStage s t) (u : UnitId) : KeptOrEntered u s t := by
  refine h.lift (R := KeptOrEntered u) (.inl rfl) fun _ h => ?_
  cases decodeStage_tick h with
  | idle => exact .inl rfl
  | fetchFault => exact .inl (by simp)
  | read _ _ _ go =>
    have entered := go.keptOrEntered u
    rwa [KeptOrEntered, State.readOperands_unit] at entered
  | await _ _ _ go => exact go.keptOrEntered u

theorem Dispatch.wb {s t : State} (h : Dispatch s t) : t.wb = s.wb := by
  cases h with
  | wait _ => rfl
  | fault => rfl
  | go _ => simp [afterDispatch]

theorem decode_wb {s t : State} (h : StageStep decodeStage s t) : t.wb = s.wb := by
  refine h.lift (R := fun s t => t.wb = s.wb) rfl fun _ h => ?_
  cases decodeStage_tick h with
  | idle => rfl
  | fetchFault => rfl
  | read _ _ _ go => exact go.wb
  | await _ _ _ go => exact go.wb

theorem fetch_wb {s t : State} (h : StageStep fetch s t) : t.wb = s.wb := by
  refine h.lift (R := fun s t => t.wb = s.wb) rfl fun _ h => ?_
  obtain ⟨_, _, _, _, _, rfl, -⟩ := fetch_eq_with h
  rfl

/-- While an empty unit means room in the queue, a dispatch raises no fault (40_pipeline R182, 60_exceptions R328). -/
theorem dispatch_running {s t : State} (running : s.status = .running)
    (room : ∀ u, (s.unit u).occ = false → s.rq.length ≠ Config.rqCap) (h : dispatch s = .next t) : t.status = .running := by
  rcases dispatch_cases s with ⟨-, e⟩ | ⟨empty, full, -⟩ | ⟨-, -, e⟩
  · cases e.symm.trans h; exact running
  · exact absurd full (room _ empty)
  · cases e.symm.trans h; simpa [afterDispatch] using running

/-- With something in flight Decode raises no fault: a marker is held, and an empty unit means room in the queue (40_pipeline R132,
R182). -/
theorem decode_running {s t : State} (flight : s.FlightOk) (running : s.status = .running) (queue : s.rq ≠ [])
    (h : decodeStage s = .next t) : t.status = .running := by
  have room : ∀ u, (s.unit u).occ = false → s.rq.length ≠ Config.rqCap := fun u empty =>
    Nat.ne_of_lt (flight.rq_length_lt (h := u.holder) (by simp [empty]))
  rcases decodeStage_cases s with ⟨-, e⟩ | ⟨-, -, none, -⟩ | ⟨-, -, -, e⟩ | ⟨-, -, -, -, e⟩ | ⟨-, -, -, -, e⟩ | ⟨-, -, -, e⟩
  · cases e.symm.trans h; exact running
  · exact absurd none queue
  · cases e.symm.trans h; exact running
  · cases e.symm.trans h; exact running
  · exact dispatch_running (s := s.readOperands) running (fun u empty => room u (by rwa [State.readOperands_unit] at empty))
      (e.symm.trans h)
  · exact dispatch_running running room (e.symm.trans h)

/-! ### The tick -/

/-- The units whose turn is before that of `u`, and after it (40_pipeline R120). -/
def earlier : UnitId → List UnitId
  | .ls => []
  | .mul => [.ls]
  | .int => [.mul, .ls]

def later : UnitId → List UnitId
  | .ls => [.int, .mul]
  | .mul => [.int]
  | .int => []

theorem ne_of_mem_earlier {u v : UnitId} (h : v ∈ earlier u) : v ≠ u := by
  rintro rfl
  cases v <;> exact absurd h (by decide)

theorem ne_of_mem_later {u v : UnitId} (h : v ∈ later u) : v ≠ u := by
  rintro rfl
  cases v <;> exact absurd h (by decide)

theorem not_mem_earlier_of_later {u v : UnitId} (h : v ∈ later u) : v ∉ earlier u := by
  cases u <;> cases v <;> revert h <;> decide

/-- The tick from `s` to `t` with the queue head in unit `u`: `m` and `n` stand before and after that unit's turn, `d` and `e` before
and after Decode. -/
structure HeadTick (u : UnitId) (s t m n d e : State) : Prop where
  before : Bystanders u (earlier u) s.ticked m
  turn : StageStep (unitStage u) m n
  after : n.status = .running → Bystanders u (later u) n d
  ended : n.status ≠ .running → d = n
  decode : StageStep decodeStage d e
  fetch : StageStep fetch e t
  flight : d.status = .running → d.d.occ = true → d.FlightOk

/-- The queue head is where it is in flight (30_encoding R93). -/
theorem State.Inv.headIn {s : State} (h : s.Inv) {u : UnitId} (occ : (s.unit u).occ = true)
    (head : s.rq.head? = some (s.unit u).seq) : s.HeadIn u where
  queue e := by simp [e] at head
  behind v hv o e := hv (h.unit_eq_of_seq o occ (Option.some.inj (e.symm.trans head)))

/-- The head stays in its unit, or goes to Writeback, while that unit takes its turn. -/
theorem State.HeadIn.turn {u : UnitId} {s t : State} (head : s.HeadIn u) (routed : s.routed) (h : StageStep (unitStage u) s t) :
    t.HeadIn u where
  queue := by rw [(unitStage_keeps h).rq]; exact head.queue
  behind v hv := by rw [(unitStage_keeps h).rq, unitStage_unit h routed hv]; exact head.behind v hv

/-- Until Decode takes its turn, the stages of a tick keep the instructions in flight in agreement with the queue. -/
theorem TickStages.flightOk {s t a b c d e : State} (st : TickStages s t a b c d e) (h : s.Inv) (running : d.status = .running)
    (occ : d.d.occ = true) : d.FlightOk := by
  obtain ⟨rc, integer⟩ := st.integer.of_running running
  obtain ⟨rb, multiply⟩ := st.multiply.of_running rc
  obtain ⟨ra, loadStore⟩ := st.loadStore.of_running rb
  have ia : a.Inv := (writeback_tick st.writeback).inv (h.withClock _) ra
  have ib : b.Inv := (loadStore_tick ra loadStore).inv ia rb (by decide) fun _ => .rfl
  have ic : c.Inv := (multiply_tick rb multiply).inv ib rc (by decide) fun _ => .rfl
  rcases (integer_tick integer).inv ic running with i | i
  · exact i.flightOk
  · exact absurd (i.2.1.symm.trans occ) (by decide)

theorem State.Inv.headTick {s t : State} (h : s.Inv) {u : UnitId} (room : s.wb.occ = false) (occ : (s.unit u).occ = true)
    (head : s.rq.head? = some (s.unit u).seq) (hstep : step s = .next t) : ∃ m n d e, HeadTick u s t m n d e := by
  obtain ⟨a, b, c, d, e, st⟩ := step_stages h.running hstep
  obtain rfl : s.ticked = a := Host.Outcome.next.inj ((writeback_empty (s := s.ticked) room).symm.trans st.writeback)
  have ra : s.ticked.routed := State.routed_of_inv (s := s) h
  have rb := (loadStore_keeps st.loadStore).routed ra
  have rc := (multiply_keeps st.multiply).routed rb
  have ha : Bystanders u [] s.ticked s.ticked :=
    .refl h.running (State.Inv.headIn (s := s.ticked) (h.withClock _) (by cases u <;> exact occ) (by cases u <;> exact head))
  have idle : ∀ {f x y}, StageStep f x y → x.status ≠ .running → y = x := fun h hx => (h.resolve_left fun r => hx r.1).2
  cases u with
  | ls =>
    have hb := ha.head.turn ra st.loadStore
    refine ⟨_, b, d, e, ha, st.loadStore, fun running => ?_, fun ended => ?_, st.decode, st.fetch, st.flightOk h⟩
    · have hc := (Bystanders.refl running hb).turn rb (v := .mul) (by decide) (by decide) st.multiply
      exact hc.turn rb (v := .int) (by decide) (by decide) st.integer
    · obtain rfl := idle st.multiply ended
      exact idle st.integer ended
  | mul =>
    have hb := ha.turn ra (v := .ls) (by decide) (by decide) st.loadStore
    have hc := hb.head.turn rb st.multiply
    refine ⟨b, c, d, e, hb, st.multiply, fun running => ?_, fun ended => ?_, st.decode, st.fetch, st.flightOk h⟩
    · exact (Bystanders.refl running hc).turn rc (v := .int) (by decide) (by decide) st.integer
    · exact idle st.integer ended
  | int =>
    have hb := ha.turn ra (v := .ls) (by decide) (by decide) st.loadStore
    have hc := hb.turn ra (v := .mul) (by decide) (by decide) st.multiply
    have hd := hc.head.turn rc st.integer
    exact ⟨c, d, d, e, hc, st.integer, fun running => .refl running hd, fun _ => rfl, st.decode, st.fetch, st.flightOk h⟩

end Sys2Proof.Machine
end


section
/-! The head of the queue retires within five ticks, unless the run ends first: O56. -/

namespace Sys2Proof.Machine

namespace HeadTick
variable {u : UnitId} {s t m n d e : State} (k : HeadTick u s t m n d e)
include k

theorem own : m.unit u = s.unit u := by
  rw [k.before.rest u fun h => ne_of_mem_earlier h rfl]
  cases u <;> rfl

theorem wb_before : m.wb = s.wb := k.before.wb

theorem rq_before : m.rq = s.rq := k.before.rq

theorem unitStage_eq (running : m.status = .running) : unitStage u m = .next n := by
  rcases k.turn with ⟨-, h⟩ | ⟨ended, -⟩
  · exact h
  · exact absurd running ended

/-- With the head still in flight Decode and Fetch raise no fault. -/
theorem running_of_units (going : n.status = .running) (units : d.status = .running) : t.status = .running := by
  have re : e.status = .running := by
    rcases k.decode with ⟨-, h⟩ | ⟨ended, -⟩
    · cases occ : d.d.occ with
      | false => cases (decodeStage_empty occ).symm.trans h; exact units
      | true => exact decode_running (k.flight units occ) units (k.after going).head.queue h
    · exact absurd units ended
  rcases k.fetch with ⟨-, h⟩ | ⟨ended, -⟩
  · exact (fetch_status h).trans re
  · exact absurd re ended

/-- After its head's turn a tick goes on to its end, or a later unit's computation ends it. -/
theorem going_or_ended (going : n.status = .running) : t.status = .running ∨ ∃ v ∈ later u, EndedBy v n t := by
  rcases (k.after going).going with units | ⟨v, hv, ended⟩
  · exact .inl (k.running_of_units going units)
  · obtain rfl : e = d := (k.decode.resolve_left fun r => ended.ended r.1).2
    obtain rfl : t = e := (k.fetch.resolve_left fun r => ended.ended r.1).2
    exact .inr ⟨v, hv, ended⟩

theorem wb_after (going : n.status = .running) : t.wb = n.wb :=
  (fetch_wb k.fetch).trans ((decode_wb k.decode).trans (k.after going).wb)

/-- After its turn the unit keeps its instruction, or is empty and can take a new one. -/
theorem unit_after (going : n.status = .running) : KeptOrEntered u n t := by
  have hd : d.unit u = n.unit u := (k.after going).rest u fun h => ne_of_mem_later h rfl
  rw [KeptOrEntered, (fetch_keeps k.fetch).unit u, ← hd]
  exact decode_unit k.decode u

/-- The instruction at the head computes in this tick: it goes to Writeback, or the tick ends there. -/
theorem computes (h : s.Inv) (running : m.status = .running) (room : s.wb.occ = false) (occ : (s.unit u).occ = true)
    (head : s.rq.head? = some (s.unit u).seq) (last : s.lastCycle u) :
    ∃ v, exec (s.unit u).instr (m.computing u) = .next v ∧ (v.status = .running → n = (v.markDone u).handedOff u) ∧
      (v.status ≠ .running → n = v) := by
  have route := ((h.unitOk u).holds occ).1
  have turn := k.unitStage_eq running
  rw [← k.own] at occ head route ⊢
  rw [← k.rq_before] at head
  have last : m.lastCycle u := by rw [State.lastCycle, k.own]; exact last
  obtain ⟨v, run⟩ := exec_next (m.unit u).instr (m.computing u)
  refine ⟨v, run, fun going => ?_, fun ended => ?_⟩
  · have room : m.wb.occ = false := by rw [k.wb_before]; exact room
    exact Host.Outcome.next.inj (turn.symm.trans (unitStage_computes occ last head room route run going))
  · rw [unitStage_last occ last head, run, Result.andThen_next_of_not_running _ ended] at turn
    exact (Host.Outcome.next.inj turn).symm

/-- The instruction at the head spends one more cycle in its unit. -/
theorem counts (running : m.status = .running) (notInt : u ≠ .int) (occ : (s.unit u).occ = true) (busy : (s.unit u).st = .busy)
    (more : (s.unit u).count + 1 ≠ latency u) :
    n.status = .running ∧ t.wb = s.wb ∧ t.unit u = { s.unit u with count := (s.unit u).count + 1 } := by
  rw [← k.own] at occ busy more ⊢
  obtain rfl : n = m.counted u :=
    Host.Outcome.next.inj ((k.unitStage_eq running).symm.trans (unitStage_count running notInt occ busy more))
  have going : (m.counted u).status = .running := by simp [State.counted, running]
  refine ⟨going, by rw [k.wb_after going, State.counted, State.setUnit_wb, k.wb_before], ?_⟩
  rcases k.unit_after going with same | ⟨empty, -⟩
  · rw [same, State.counted, State.setUnit_unit]
  · rw [State.counted, State.setUnit_unit] at empty
    exact absurd (occ.symm.trans empty) (by decide)

/-- A tick that is still going at its end has not ended in the head's turn, nor before it. -/
theorem running_of_end (running : t.status = .running) : m.status = .running ∧ n.status = .running := by
  obtain ⟨re, -⟩ := k.fetch.of_running running
  obtain ⟨rd, -⟩ := k.decode.of_running re
  have rn : n.status = .running := by
    by_contra ended
    exact ended (k.ended ended ▸ rd)
  exact ⟨(k.turn.of_running rn).1, rn⟩

/-- In a tick that does not end the run, an instruction that computes at the head goes to Writeback. -/
theorem wb_of_last (h : s.Inv) (running : t.status = .running) (room : s.wb.occ = false) (occ : (s.unit u).occ = true)
    (head : s.rq.head? = some (s.unit u).seq) (last : s.lastCycle u) : t.wb.occ = true := by
  obtain ⟨rm, rn⟩ := k.running_of_end running
  obtain ⟨v, run, moved, ended⟩ := k.computes h rm room occ head last
  have going : v.status = .running := by
    by_contra hv
    exact hv (ended hv ▸ rn)
  have route := ((h.unitOk u).holds occ).1
  rw [← k.own] at occ run route
  rw [k.wb_after rn, moved going, State.handedOff_wb, State.markDone, State.setUnit_unit]
  exact (exec_computing_sameInstr route run).1.trans occ

/-- A DONE instruction that has come to the head goes to Writeback (40_pipeline R157, R162). -/
theorem wb_of_done (running : t.status = .running) (room : s.wb.occ = false) (occ : (s.unit u).occ = true)
    (head : s.rq.head? = some (s.unit u).seq) (notInt : u ≠ .int) (done : (s.unit u).st = .done) : t.wb.occ = true := by
  obtain ⟨rm, rn⟩ := k.running_of_end running
  rw [← k.own] at occ head done
  rw [← k.rq_before] at head
  have moved := unitStage_done rm notInt occ done head (by rw [k.wb_before]; exact room)
  rw [k.wb_after rn, Host.Outcome.next.inj ((k.unitStage_eq rm).symm.trans moved), State.handedOff_wb, occ]

/-- A unit whose turn comes after that of the head's unit has its latch as the tick found it. -/
theorem later_unit (routed : s.routed) {v : UnitId} (hv : v ∈ later u) : n.unit v = s.unit v := by
  rw [unitStage_unit k.turn (k.before.toUnitsKeep.routed (s := s.ticked) routed) (ne_of_mem_later hv),
    k.before.rest v (not_mem_earlier_of_later hv)]
  cases v <;> rfl

/-- An instruction that is not the head stays in its unit. -/
theorem occ_after (going : n.status = .running) {v : UnitId} (hv : v ≠ u) (occ : (n.unit v).occ = true) : (t.unit v).occ = true := by
  have hd : (d.unit v).occ = true := ((k.after going).occ v hv).trans occ
  rw [(fetch_keeps k.fetch).unit v]
  rcases decode_unit k.decode v with same | ⟨empty, -⟩
  · rw [same, hd]
  · exact absurd (hd.symm.trans empty) (by decide)

end HeadTick

/-- The Multiplier and the Load/Store unit count up to their latency (10_state R36). -/
theorem State.Inv.unit_progress {s : State} (h : s.Inv) {u : UnitId} (occ : (s.unit u).occ = true) (notInt : u ≠ .int) :
    unitProgress (s.unit u) (latency u) := by
  have progress := ((h.unitOk u).holds occ).2
  cases u with
  | int => exact absurd rfl notInt
  | mul => exact progress
  | ls => exact progress

/-- In a tick that does not end the run, the instruction at the queue head goes to Writeback or spends one more cycle in its unit. -/
theorem State.Inv.head_advances {s t : State} (h : s.Inv) {u : UnitId} (room : s.wb.occ = false) (occ : (s.unit u).occ = true)
    (head : s.rq.head? = some (s.unit u).seq) (hstep : step s = .next t) (running : t.status = .running) :
    t.wb.occ = true ∨ (t.wb.occ = false ∧ (s.unit u).count + 1 < latency u ∧
      t.unit u = { s.unit u with count := (s.unit u).count + 1 }) := by
  obtain ⟨m, n, d, e, k⟩ := h.headTick room occ head hstep
  obtain ⟨rm, -⟩ := k.running_of_end running
  by_cases hu : u = .int
  · exact .inl (k.wb_of_last h running room occ head fun notInt => absurd hu notInt)
  · rcases h.unit_progress occ hu with ⟨busy, below⟩ | ⟨done, -⟩
    · by_cases last : (s.unit u).count + 1 = latency u
      · exact .inl (k.wb_of_last h running room occ head fun _ => ⟨busy, last⟩)
      · obtain ⟨-, wb, own⟩ := k.counts rm hu occ busy last
        exact .inr ⟨by rw [wb, room], by omega, own⟩
    · exact .inl (k.wb_of_done running room occ head hu done)

/-- The instruction in Writeback retires in the next tick, and nothing else writes a register in it (40_pipeline R165). -/
theorem State.Inv.step_retires {s t : State} (h : s.Inv) (occ : s.wb.occ = true) (hstep : step s = .next t) :
    t.retired = s.retired + 1#64 ∧ t.x = s.commitResult.x ∧ t.clock = s.clock + 1#64 := by
  obtain ⟨a, b, c, d, e, st⟩ := step_stages h.running hstep
  obtain rfl := st.eq_afterRetire h occ
  have x : s.ticked.commitResult.x = s.commitResult.x := by rw [State.commitResult_x, State.commitResult_x]; rfl
  exact ⟨st.keeps.retired, st.keeps.x.trans x, st.keeps.clock⟩

/-- With Writeback empty nothing retires, and the head of the queue stays. -/
theorem State.Inv.step_head {s t : State} (h : s.Inv) (room : s.wb.occ = false) (queue : s.rq ≠ []) (hstep : step s = .next t) :
    t.retired = s.retired ∧ t.rq.head? = s.rq.head? := by
  obtain ⟨q, pop, push⟩ := queuePopsAtRetirementAndGrowsAtDispatch s t h.running hstep
  obtain ⟨rfl, retired⟩ := pop.resolve_right fun p => absurd (room.symm.trans p.1) (by decide)
  refine ⟨retired, ?_⟩
  rcases push with e | ⟨-, -, e⟩
  · rw [e]
  · rw [e, List.head?_append_of_ne_nil _ queue]

/-- With Writeback empty the head of a non-empty queue is in a unit (10_state R43 point 2). -/
theorem State.Inv.exists_head_unit {s : State} (h : s.Inv) (room : s.wb.occ = false) (queue : s.rq ≠ []) :
    ∃ u, (s.unit u).occ = true ∧ s.rq.head? = some (s.unit u).seq := by
  obtain ⟨hs, -, mem, rq, -, -⟩ := h.queue
  cases hs with
  | nil => exact absurd rq queue
  | cons j rest =>
    have flight : s.inFlight j := (mem j).mp (by simp)
    rcases j.wb_or_unit with rfl | ⟨u, rfl⟩
    · exact absurd (room.symm.trans flight) (by decide)
    · exact ⟨u, by simpa using flight, by rw [rq]; simp⟩

/-- The run ends or the count of retirements goes from `c` to `c + 1` within `k` ticks. -/
def State.RetiresWithin (s : State) (k : Nat) (c : Counter) : Prop :=
  ∃ n t, n ≤ k ∧ ticks n s = .next t ∧ (t.status ≠ .running ∨ t.retired = c + 1#64)

theorem State.RetiresWithin.of_step {s t : State} {k : Nat} {c : Counter} (hstep : step s = .next t) (h : t.RetiresWithin k c) :
    s.RetiresWithin (k + 1) c := by
  obtain ⟨n, v, hn, run, e⟩ := h
  exact ⟨n + 1, v, Nat.succ_le_succ hn, (ticks_succ_of_step hstep).trans run, e⟩

theorem State.RetiresWithin.mono {s : State} {j k : Nat} {c : Counter} (h : s.RetiresWithin j c) (le : j ≤ k) : s.RetiresWithin k c := by
  obtain ⟨n, t, hn, rest⟩ := h
  exact ⟨n, t, hn.trans le, rest⟩

theorem State.retiresWithin_zero {s : State} {c : Counter} (h : s.status ≠ .running ∨ s.retired = c + 1#64) :
    s.RetiresWithin 0 c := ⟨0, s, le_rfl, rfl, h⟩

theorem State.Inv.wb_retiresWithin {s : State} (h : s.Inv) (occ : s.wb.occ = true) : s.RetiresWithin 1 s.retired := by
  obtain ⟨t, hstep⟩ := step_next s
  exact .of_step hstep (State.retiresWithin_zero (.inr (h.step_retires occ hstep).1))

/-- A head in a unit that needs at most `k` cycles after the next one is handed off within `k + 1` ticks, and retires in the one
after. -/
theorem State.Inv.unit_retiresWithin {s : State} (h : s.Inv) {u : UnitId} (room : s.wb.occ = false) (occ : (s.unit u).occ = true)
    (head : s.rq.head? = some (s.unit u).seq) {k : Nat} (need : latency u ≤ (s.unit u).count + k + 1) :
    s.RetiresWithin (k + 2) s.retired := by
  induction k using Nat.strong_induction_on generalizing s with
  | _ k ih =>
    obtain ⟨t, hstep⟩ := step_next s
    by_cases running : t.status = .running
    · have inv := everyTickKeepsThePipelineInvariant s t h hstep running
      obtain ⟨retired, same⟩ := h.step_head room (h.headIn occ head).queue hstep
      rw [← retired]
      rcases h.head_advances room occ head hstep running with wb | ⟨wb, more, own⟩
      · exact (State.RetiresWithin.of_step hstep (inv.wb_retiresWithin wb)).mono (Nat.le_add_left 2 k)
      · have one : k = k - 1 + 1 := by omega
        have rest := ih (k - 1) (by omega) inv wb (by rw [own]; exact occ) (by rw [own, same]; exact head)
          (by rw [own]; simp only; omega)
        exact (State.RetiresWithin.of_step hstep rest).mono (by omega)
    · exact (State.RetiresWithin.of_step hstep (State.retiresWithin_zero (.inl running))).mono (Nat.le_add_left 1 (k + 1))

/-- Settles O56: four ticks bring the head to Writeback, wherever it is, and the fifth retires it. -/
theorem headRetiresWithinFiveTicks : Obligations.HeadRetiresWithinFiveTicks := by
  intro s h queue
  show s.RetiresWithin 5 s.retired
  cases wb : s.wb.occ with
  | true => exact (h.wb_retiresWithin wb).mono (by decide)
  | false =>
    obtain ⟨u, occ, head⟩ := h.exists_head_unit wb queue
    exact h.unit_retiresWithin (k := 3) wb occ head (by cases u <;> simp [latency, Config.mulLat, Config.lsLat])

end Sys2Proof.Machine
end


section
/-! The timing of an instruction with nothing older in flight, while Fetch and Decode go on: O46 to O49. It is dispatched, spends its
cycles in its unit (`Aged`), computes and is handed off (`HandsOff`), and retires; the younger instructions behind it have spent
fewer cycles, so that none of them computes before it, and only a MUL can compute in the tick in which a Load/Store instruction
does. -/

namespace Sys2Proof.Machine

/-! ### Cycles spent -/

/-- A unit's turn counts at most one cycle. -/
theorem UnitTick.count_le {u : UnitId} {lat : Nat} {s t : State} (h : UnitTick u lat s t)
    (route : (s.unit u).occ = true → unitOf (s.unit u).instr = u) : (t.unit u).count ≤ (s.unit u).count + 1 := by
  have off : ∀ {s t : State}, HandOff u s t → (t.unit u).count = (s.unit u).count := fun h => by
    cases h <;> simp
  have run : ∀ {v : State}, (s.unit u).occ = true → exec (s.unit u).instr (s.counted u) = .next v →
      (v.unit u).count = (s.unit u).count + 1 := fun occ e => by
    obtain ⟨r, ea, own⟩ := (exec_effect e).own
    rw [route occ] at own
    rw [own]
    simp [State.counted]
  cases h with
  | idle _ => exact Nat.le_succ _
  | count _ _ _ => simp [State.counted]
  | fault occ _ _ e _ => exact (run occ e).le
  | final occ _ _ e _ o => rw [off o, State.markDone, State.setUnit_unit]; exact (run occ e).le
  | done _ _ o => rw [off o]; exact Nat.le_succ _

theorem unitStage_count_le {v : UnitId} {s t : State} (h : StageStep (unitStage v) s t) (routed : s.routed) (notInt : v ≠ .int) :
    (t.unit v).count ≤ (s.unit v).count + 1 := by
  refine h.lift (R := fun s t => s.routed → (t.unit v).count ≤ (s.unit v).count + 1) (fun _ => Nat.le_succ _)
    (fun hr h routed => ?_) routed
  have route := State.routed_iff.mp routed v
  cases v with
  | int => exact absurd rfl notInt
  | mul => exact (multiply_tick hr h).count_le route
  | ls => exact (loadStore_tick hr h).count_le route

/-- In a tick an instruction spends at most one cycle in the Multiplier or the Load/Store unit, and one that enters has spent none. -/
theorem step_count {s t : State} (running : s.status = .running) (routed : s.routed) (h : step s = .next t) {v : UnitId}
    (notInt : v ≠ .int) (occ : (t.unit v).occ = true) :
    (t.unit v).count = 0 ∨ ((s.unit v).occ = true ∧ (t.unit v).count ≤ (s.unit v).count + 1) := by
  obtain ⟨a, b, c, d, e, st⟩ := step_stages running h
  have ha := st.writebackKeeps.routed routed
  have hb := (loadStore_keeps st.loadStore).routed ha
  have hc := (multiply_keeps st.multiply).routed hb
  have hs : a.unit v = s.unit v := (st.writebackKeeps.unit v).trans (by cases v <;> rfl)
  rw [(fetch_keeps st.fetch).unit v] at occ ⊢
  rcases decode_unit st.decode v with same | ⟨-, none⟩
  · rw [same] at occ ⊢
    have count : (d.unit v).count ≤ (a.unit v).count + 1 := by
      rw [integer_unit st.integer hc notInt]
      cases v with
      | int => exact absurd rfl notInt
      | mul =>
        rw [← unitStage_unit (v := .ls) st.loadStore ha (w := .mul) (by decide)]
        exact unitStage_count_le (v := .mul) st.multiply hb notInt
      | ls =>
        rw [unitStage_unit (v := .mul) st.multiply hb (w := .ls) (by decide)]
        exact unitStage_count_le (v := .ls) st.loadStore ha notInt
    rw [← hs]
    exact .inr ⟨(st.unitsKeep.units v occ).1, count⟩
  · exact .inl none

/-! ### A tick without a retirement -/

/-- A tick that retires nothing writes no register and releases no bit (10_state R22, R27, R30). -/
structure NoRetirement (s t : State) : Prop where
  x : t.x = s.x
  retired : t.retired = s.retired
  clock : t.clock = s.clock + 1#64
  cfg : t.cfg = s.cfg
  sb : ∀ r : Reg, s.sb[r] = true → t.sb[r] = true

theorem State.Inv.noRetirement {s t : State} (h : s.Inv) (room : s.wb.occ = false) (hstep : step s = .next t) : NoRetirement s t := by
  obtain ⟨a, b, c, d, e, st⟩ := step_stages h.running hstep
  obtain rfl : s.ticked = a := Host.Outcome.next.inj ((writeback_empty (s := s.ticked) room).symm.trans st.writeback)
  have k := st.keeps
  refine ⟨k.x, k.retired, k.clock, k.cfg, fun r busy => ?_⟩
  by_contra free
  have released := (scoreboardChangesOnlyByDispatchAndRetirement s t r hstep).2 busy (Bool.eq_false_iff.mpr free)
  exact absurd (room.symm.trans released.1) (by decide)

/-- A tick changes the data memory on the Load/Store unit's final cycle only. -/
theorem State.Inv.step_dmem {s t : State} (h : s.Inv) (hstep : step s = .next t) (noStore : ¬s.finalCycle .ls) : t.dmem = s.dmem := by
  by_contra changed
  obtain ⟨-, occ, busy, count, -⟩ := memoryChangesOnlyByStores s t (State.routed_of_inv h) hstep changed
  exact noStore ⟨occ, busy, congrArg Nat.succ count⟩

/-- Behind the queue head the Integer unit changes no flag, and the Multiplier on its final cycle only. -/
theorem State.Inv.step_z {s t : State} (h : s.Inv) (hstep : step s = .next t) (room : s.wb.occ = false)
    (behind : s.int.occ = true → s.rq.head? ≠ some s.int.seq) (noProduct : ¬s.finalCycle .mul) : t.z = s.z := by
  by_contra changed
  rcases zeroFlagChangesOnlyByItsWriters s t (State.routed_of_inv h) hstep changed with ⟨occ, -, head | ⟨wb, -⟩⟩ | ⟨occ, busy, count⟩
  · exact behind occ head
  · exact absurd (room.symm.trans wb) (by decide)
  · exact noProduct ⟨occ, busy, congrArg Nat.succ count⟩

/-! ### The oldest instruction in its unit -/

/-- The oldest instruction in flight is in unit `u` and has spent `n` cycles there; every other one came later (40_pipeline R185). -/
structure Oldest (u : UnitId) (s : State) (n : Nat) : Prop where
  inv : s.Inv
  room : s.wb.occ = false
  occ : (s.unit u).occ = true
  head : s.rq.head? = some (s.unit u).seq
  busy : (s.unit u).st = .busy
  count : (s.unit u).count = n
  young : ∀ v, v ≠ u → v ≠ .int → (s.unit v).occ = true → (s.unit v).count < n

namespace Oldest
variable {u : UnitId} {s : State} {n : Nat} (o : Oldest u s n)
include o

/-- No younger instruction computes before the oldest, and with it only a MUL behind a Load/Store instruction. -/
theorem finalCycle_younger (within : n < latency u) {v : UnitId} (hv : v ≠ u) (final : s.finalCycle v) :
    u = .ls ∧ v = .mul ∧ n + 1 = latency u := by
  have young := o.young v hv
  cases v with
  | int => exact absurd final id
  | mul =>
    obtain ⟨occ, -, count⟩ := final
    have less : 2 < n := Nat.succ.inj count ▸ young (by decide) occ
    cases u with
    | int => exact absurd within (by simp only [latency]; omega)
    | mul => exact absurd rfl hv
    | ls => exact ⟨rfl, rfl, by simp only [latency, Config.lsLat] at within ⊢; omega⟩
  | ls =>
    obtain ⟨occ, -, count⟩ := final
    have less : 3 < n := Nat.succ.inj count ▸ young (by decide) occ
    have most : latency u ≤ 4 := by cases u <;> decide
    omega

theorem headTick {t : State} (hstep : step s = .next t) : ∃ m n d e, HeadTick u s t m n d e :=
  o.inv.headTick o.room o.occ o.head hstep

/-- No younger instruction ends the tick before the oldest takes its turn. -/
theorem running_before {t m n' d e : State} (k : HeadTick u s t m n' d e) (within : n < latency u) : m.status = .running := by
  refine k.before.going.resolve_right fun ⟨v, hv, ended⟩ => ?_
  have final : s.finalCycle v := State.finalCycle_congr (s := s) (by cases v <;> rfl) ended.final
  obtain ⟨rfl, rfl, -⟩ := o.finalCycle_younger within (ne_of_mem_earlier hv) final
  simp [earlier] at hv

theorem finalCycle_later {t m n' d e : State} (k : HeadTick u s t m n' d e) (within : n < latency u) {v : UnitId}
    (hv : v ∈ later u) (final : n'.finalCycle v) : u = .ls ∧ v = .mul ∧ n + 1 = latency u ∧ s.finalCycle .mul := by
  have final := State.finalCycle_congr (k.later_unit (State.routed_of_inv o.inv) hv) final
  obtain ⟨rfl, rfl, last⟩ := o.finalCycle_younger within (ne_of_mem_later hv) final
  exact ⟨rfl, rfl, last, final⟩

/-- Before its last cycle the oldest instruction only spends one more, and the younger ones write nothing. -/
theorem tick_waits (more : n + 1 < latency u) : ∃ t, step s = .next t ∧ Oldest u t (n + 1) ∧
    t.unit u = { s.unit u with count := n + 1 } ∧ NoRetirement s t ∧ t.z = s.z ∧ t.dmem = s.dmem := by
  obtain ⟨t, hstep⟩ := step_next s
  obtain ⟨m, n', d, e, k⟩ := o.headTick hstep
  have within : n < latency u := Nat.lt_of_succ_lt more
  have notInt : u ≠ .int := fun e => by subst e; simp [latency] at more
  have none : ∀ v, v ≠ u → ¬s.finalCycle v := fun v hv final =>
    absurd (o.finalCycle_younger within hv final).2.2 (Nat.ne_of_lt more)
  obtain ⟨going, wb, own⟩ := k.counts (o.running_before k within) notInt o.occ o.busy (by rw [o.count]; exact Nat.ne_of_lt more)
  rw [o.count] at own
  have running : t.status = .running := (k.going_or_ended going).resolve_right fun ⟨v, hv, ended⟩ =>
    absurd (o.finalCycle_later k within hv ended.final).2.2.1 (Nat.ne_of_lt more)
  have behind := (o.inv.headIn o.occ o.head).behind
  refine ⟨t, hstep, ⟨everyTickKeepsThePipelineInvariant s t o.inv hstep running, ?_, ?_, ?_, ?_, ?_, ?_⟩, own,
    o.inv.noRetirement o.room hstep, ?_, ?_⟩
  · rw [wb, o.room]
  · rw [own]; exact o.occ
  · rw [(o.inv.step_head o.room (o.inv.headIn o.occ o.head).queue hstep).2, own]; exact o.head
  · rw [own]; exact o.busy
  · rw [own]
  · intro v hv hi occ
    rcases step_count o.inv.running (State.routed_of_inv o.inv) hstep hi occ with count | ⟨was, count⟩
    · omega
    · have young := o.young v hv hi was
      omega
  · refine o.inv.step_z hstep o.room (behind .int (Ne.symm notInt)) fun final => ?_
    by_cases hu : u = .mul
    · subst hu
      exact absurd (o.count ▸ final.2.2) (Nat.ne_of_lt more)
    · exact none .mul (Ne.symm hu) final
  · refine o.inv.step_dmem hstep fun final => ?_
    by_cases hu : u = .ls
    · subst hu
      exact absurd (o.count ▸ final.2.2) (Nat.ne_of_lt more)
    · exact none .ls (Ne.symm hu) final

/-- In the tick after the hand-off no younger instruction is on the Load/Store unit's last cycle. -/
theorem noStore_after {t m n' d e : State} (k : HeadTick u s t m n' d e) (hstep : step s = .next t) (last : n + 1 = latency u)
    (going : n'.status = .running) (empty : (n'.unit u).occ = false) : ¬t.finalCycle .ls := by
  rintro ⟨occ, -, final⟩
  have final : (t.unit .ls).count = 3 := Nat.succ.inj final
  by_cases hu : u = .ls
  · subst hu
    rcases k.unit_after going with same | ⟨-, none⟩
    · rw [← State.unit_ls, same, empty] at occ
      cases occ
    · omega
  · have small : latency u ≤ 3 := by
      cases u with
      | int => decide
      | mul => decide
      | ls => exact absurd rfl hu
    rcases step_count o.inv.running (State.routed_of_inv o.inv) hstep (v := .ls) (by decide) occ with none | ⟨was, more⟩
    · omega
    · have young := o.young .ls (Ne.symm hu) (by decide) was
      omega

end Oldest

/-- A MUL has ended the run with an overflow, and is still in its unit (60_exceptions R326). -/
def MulOverflowed (t : State) : Prop :=
  ∃ r, t.fault = some r ∧ r.kind = .overflowFault ∧ r.seq = some t.mul.seq ∧ t.mul.occ = true

theorem EndedBy.mulOverflowed {s t : State} (h : EndedBy .mul s t) (routed : s.routed) : MulOverflowed t := by
  obtain ⟨⟨occ, -, -⟩, ended, m, running, own, run⟩ := h
  have own : m.mul = s.mul := own
  rcases exec_mul_cases (routed.2.1 occ) (m.counted .mul) with ⟨w, b, e⟩ | e
  · cases e.symm.trans run
    exact absurd running ended
  · cases e.symm.trans run
    exact ⟨_, rfl, rfl, rfl, by rw [← own] at occ; exact occ⟩

/-- In the tick from `s` to `t` the instruction of unit `u`, which computed in `v`, went to Writeback with its result; only a MUL behind
a Load/Store instruction has changed Z or ended the run after that (40_pipeline R145, R184). -/
structure HandsOff (u : UnitId) (s v t : State) : Prop where
  wb : t.wb.occ = true ∧ t.wb.instr = (s.unit u).instr ∧ t.wb.seq = (s.unit u).seq ∧ t.wb.res = (v.unit u).res
  z : t.z = v.z ∨ (u = .ls ∧ t.mul.occ = true)
  dmem : u = .ls → t.dmem = v.dmem
  going : t.status = .running ∨ (u = .ls ∧ MulOverflowed t)
  noStore : ¬t.finalCycle .ls

/-- On its last cycle the oldest instruction computes, in a state with its unit's latch as it was, and is handed off. -/
theorem Oldest.tick_computes {u : UnitId} {s : State} {n : Nat} (o : Oldest u s n) (last : n + 1 = latency u) {Q : State → Prop}
    (compute : ∀ m : State, m.status = .running → m.unit u = s.unit u → m.cfg = s.cfg → (u = .ls → m.z = s.z ∧ m.dmem = s.dmem) →
      ∃ v, exec (s.unit u).instr (m.computing u) = .next v ∧ v.status = .running ∧ Q v) :
    ∃ v t, Q v ∧ step s = .next t ∧ HandsOff u s v t ∧ NoRetirement s t ∧ (u ≠ .ls → t.dmem = s.dmem) := by
  obtain ⟨t, hstep⟩ := step_next s
  obtain ⟨m, n', d, e, k⟩ := o.headTick hstep
  have within : n < latency u := by omega
  have running := o.running_before k within
  have data : u = .ls → m.z = s.z ∧ m.dmem = s.dmem := fun hu => by
    subst hu
    exact ⟨k.before.z.resolve_right (by simp [earlier]), k.before.dmem (by simp [earlier])⟩
  obtain ⟨v, run, rv, q⟩ := compute m running k.own k.before.cfg data
  obtain ⟨v', run', moved, -⟩ := k.computes o.inv running o.room o.occ o.head fun _ => ⟨o.busy, by rw [o.count]; exact last⟩
  obtain rfl := Host.Outcome.next.inj (run.symm.trans run')
  have hn := moved rv
  have going : n'.status = .running := by rw [hn]; simp [State.handedOff, State.markDone, rv]
  have routed := State.routed_of_inv o.inv
  refine ⟨v, t, q, hstep, ⟨?_, ?_, fun hu => ?_, ?_, ?_⟩, o.inv.noRetirement o.room hstep, fun hu => ?_⟩
  · rw [k.wb_after going, hn, State.handedOff_wb, State.markDone, State.setUnit_unit]
    have route := ((o.inv.unitOk u).holds o.occ).1
    rw [← k.own] at run route ⊢
    obtain ⟨occ, same⟩ := exec_computing_sameInstr route run
    have occ' : (m.unit u).occ = true := by rw [k.own]; exact o.occ
    obtain ⟨instr, seq, -⟩ := same occ'
    exact ⟨occ.trans occ', instr, seq, rfl⟩
  · rw [(fetch_keeps k.fetch).z, (decode_keeps k.decode).z]
    have hz : n'.z = v.z := by rw [hn]; simp [State.handedOff, State.markDone]
    rw [← hz]
    refine (k.after going).z.imp_right fun ⟨w, hw, final⟩ => ?_
    obtain ⟨rfl, rfl, -, -⟩ := o.finalCycle_later k within hw final
    exact ⟨rfl, k.occ_after going (v := .mul) (by decide) final.1⟩
  · subst hu
    rw [fetch_dmem k.fetch, decode_dmem k.decode, (k.after going).dmem (by simp [later]), hn]
    simp [State.handedOff, State.markDone]
  · refine (k.going_or_ended going).imp_right fun ⟨w, hw, ended⟩ => ?_
    obtain ⟨rfl, rfl, -, -⟩ := o.finalCycle_later k within hw ended.final
    have hr : n'.routed := (unitStage_keeps k.turn).routed (k.before.toUnitsKeep.routed (s := s.ticked) routed)
    exact ⟨rfl, ended.mulOverflowed hr⟩
  · exact o.noStore_after k hstep last going (by rw [hn, State.handedOff_unit])
  · exact o.inv.step_dmem hstep fun final => absurd (o.finalCycle_younger within (Ne.symm hu) final).1 hu

/-! ### From Decode to the last cycle -/

/-- `t` is `n` ticks after the one in which `s` dispatched `i`, which is the oldest instruction in flight and has only waited. -/
structure Aged (s t : State) (i : Instr) (n : Nat) : Prop where
  oldest : Oldest (unitOf i) t n
  instr : (t.unit (unitOf i)).instr = i
  seq : (t.unit (unitOf i)).seq = s.d.seq
  operands : (t.unit (unitOf i)).operandsFrom s.x
  reserved : ∀ r, destOf i = some r → t.sb[r] = true
  x : t.x = s.x
  z : t.z = s.z
  dmem : t.dmem = s.dmem
  cfg : t.cfg = s.cfg
  retired : t.retired = s.retired
  clock : t.clock = s.clock + BitVec.ofNat 64 (n + 1)

theorem ticks_snoc {n : Nat} : ∀ {s t v : State}, ticks n s = .next t → step t = .next v → ticks (n + 1) s = .next v := by
  induction n with
  | zero =>
    intro s t v run last
    cases run
    exact ticks_one s last
  | succ n ih =>
    intro s t v run last
    obtain ⟨w, first⟩ := step_next s
    rw [ticks_succ_of_step first] at run ⊢
    exact ih run last

section
variable {s : State} {i : Instr}

theorem State.startsWith.launches (h : s.startsWith i) : ∃ t, step s = .next t ∧ Launched s t ∧ Aged s t i 0 := by
  obtain ⟨inv, queue, occ, valid, phase, rfl⟩ := h
  obtain ⟨t, hstep, l⟩ := inv.step_launches queue occ valid
  refine ⟨t, hstep, l, ⟨?_, l.instr, l.seq, l.operands phase, l.reserved, l.x, l.z, l.dmem, l.cfg, l.retired, l.clock⟩⟩
  exact {
    inv := everyTickKeepsThePipelineInvariant s t inv hstep l.running
    room := l.wb
    occ := l.occ
    head := by rw [l.rq, l.seq]; rfl
    busy := l.st
    count := l.count
    young := fun v hv _ o => absurd ((l.others v hv).symm.trans o) (by decide) }

/-- One more cycle in the unit. -/
theorem Aged.tick {t : State} {n : Nat} (a : Aged s t i n) (more : n + 1 < latency (unitOf i)) :
    ∃ v, step t = .next v ∧ Aged s v i (n + 1) := by
  obtain ⟨v, hstep, oldest, own, k, z, dmem⟩ := a.oldest.tick_waits more
  refine ⟨v, hstep, ⟨oldest, ?_, ?_, ?_, fun r hr => k.sb r (a.reserved r hr), k.x.trans a.x, z.trans a.z, dmem.trans a.dmem,
    k.cfg.trans a.cfg, k.retired.trans a.retired, ?_⟩⟩
  · rw [own]; exact a.instr
  · rw [own]; exact a.seq
  · rw [own]; exact a.operands
  · rw [k.clock, a.clock, BitVec.add_assoc, ← BitVec.ofNat_add]

/-- The instruction reaches its last cycle with nothing computed. -/
theorem State.startsWith.ages (h : s.startsWith i) {n : Nat} (within : n < latency (unitOf i)) :
    ∃ t, ticks (n + 1) s = .next t ∧ Aged s t i n := by
  induction n with
  | zero =>
    obtain ⟨t, hstep, -, aged⟩ := h.launches
    exact ⟨t, ticks_one s hstep, aged⟩
  | succ n ih =>
    obtain ⟨t, run, aged⟩ := ih (Nat.lt_of_succ_lt within)
    obtain ⟨v, hstep, older⟩ := aged.tick within
    exact ⟨v, ticks_snoc run hstep, older⟩

/-- What is true of a lone instruction in Writeback, whose result was computed in `v`, before and after it retires; after the
retirement only as long as no younger instruction has ended the run. -/
structure Completes (s v t : State) (i : Instr) : Prop where
  run : ticks (latency (unitOf i) + 1) s = .next t
  wb : t.wb.occ = true ∧ t.wb.instr = i ∧ t.wb.seq = s.d.seq ∧ t.wb.res = (v.unit (unitOf i)).res
  reserved : ∀ r, destOf i = some r → t.sb[r] = true
  x : t.x = s.x
  retired : t.retired = s.retired
  z : t.z = v.z ∨ (unitOf i = .ls ∧ t.mul.occ = true)
  dmem : t.dmem = if unitOf i = .ls then v.dmem else s.dmem
  going : t.status = .running ∨ (unitOf i = .ls ∧ MulOverflowed t)
  retires : t.status = .running → ∃ u, ticks (latency (unitOf i) + 2) s = .next u ∧ u.x = t.commitResult.x ∧
    u.retired = s.retired + 1#64 ∧ u.clock = s.clock + BitVec.ofNat 64 (latency (unitOf i) + 2) ∧ u.dmem = t.dmem

/-- An instruction with nothing older in flight that raises no fault computes after its unit's cycles, on the operands of the
dispatching tick, and retires two ticks after the last of them (40_pipeline R184). -/
theorem State.startsWith.completes (h : s.startsWith i) {Q : State → Prop}
    (compute : ∀ m : State, m.status = .running → (m.unit (unitOf i)).instr = i → (m.unit (unitOf i)).operandsFrom s.x → m.cfg = s.cfg →
      (unitOf i = .ls → m.z = s.z ∧ m.dmem = s.dmem) →
      ∃ v, exec i (m.computing (unitOf i)) = .next v ∧ v.status = .running ∧ Q v) :
    ∃ v t, Q v ∧ Completes s v t i := by
  obtain ⟨n, last⟩ : ∃ n, n + 1 = latency (unitOf i) := by cases unitOf i <;> exact ⟨_, rfl⟩
  obtain ⟨a, run, aged⟩ := h.ages (n := n) (by omega)
  have o := aged.oldest
  obtain ⟨v, t, q, hstep, off, k, dmem⟩ := o.tick_computes last (Q := Q) fun m running own cfg data => by
    rw [aged.instr]
    refine compute m running ?_ ?_ (cfg.trans aged.cfg) fun hu => ?_
    · rw [own]; exact aged.instr
    · rw [own]; exact aged.operands
    · exact ⟨(data hu).1.trans aged.z, (data hu).2.trans aged.dmem⟩
  have run' := ticks_snoc run hstep
  rw [last] at run'
  obtain ⟨occ, instr, seq, res⟩ := off.wb
  refine ⟨v, t, q, run', ⟨occ, instr.trans aged.instr, seq.trans aged.seq, res⟩, fun r hr => k.sb r (aged.reserved r hr),
    k.x.trans aged.x, k.retired.trans aged.retired, off.z, ?_, off.going, fun running => ?_⟩
  · split
    · next hu => exact off.dmem hu
    · next hu => exact (dmem hu).trans aged.dmem
  · obtain ⟨u, retire⟩ := step_next t
    have inv := everyTickKeepsThePipelineInvariant a t o.inv hstep running
    obtain ⟨retired, x, clock⟩ := inv.step_retires occ retire
    refine ⟨u, ticks_snoc run' retire, x, ?_, ?_, inv.step_dmem retire off.noStore⟩
    · rw [retired, k.retired, aged.retired]
    · rw [clock, k.clock, aged.clock, last, BitVec.add_assoc, BitVec.add_assoc, ← BitVec.ofNat_add, ← BitVec.ofNat_add]

end

/-! ### The four instructions -/

/-- A sum that fits a word is the Integer unit's result, and Z says whether it is 0 (41_integer_alu R205). -/
theorem exec_add_of_fits {s : State} (rd rs1 rs2 : Reg) {w : Word} (fits : w.toInt = s.int.a.toInt + s.int.b.toInt) :
    exec (.add rd rs1 rs2) s = .next { s with int := { s.int with res := w }, z := decide (w = 0#32) } := by
  show intArith _ s = _
  rw [intArith, ← fits, fit_of_toInt]
  rfl

/-- An STR in bounds writes its value operand to the addressed cell (43_load_store R268). -/
theorem exec_str_of_lt {s : State} (rs1 rs2 rs3 : Reg) {a : Nat} (address : (a : Int) = s.ls.b.toInt + s.ls.c.toInt)
    (bound : a < s.cfg.dmemSize) : exec (.str rs1 rs2 rs3) s =
      .next { s with ls := { s.ls with ea := (a : Int) }, dmem := Memory.write s.dmem a s.ls.a } := by
  show storeCell (s.ls.b.toInt + s.ls.c.toInt) s.ls.a s = _
  rw [← address]
  exact storeCell_valid _ (validAddress_of_lt bound)

theorem State.commitResult_x_of_dest {s : State} {r : Reg} (h : destOf s.wb.instr = some r) :
    s.commitResult.x = s.x.set r s.wb.res := by
  rw [State.commitResult_x, h]

theorem State.commitResult_x_of_none {s : State} (h : destOf s.wb.instr = none) : s.commitResult.x = s.x := by
  rw [State.commitResult_x, h]

/-- Settles O46. -/
theorem loneAddRetiresInThreeTicks : Obligations.LoneAddRetiresInThreeTicks := by
  intro s rd rs1 rs2 w h fits
  obtain ⟨a, first, launched, aged⟩ := h.launches
  obtain ⟨v, t, ⟨res, z⟩, c⟩ := h.completes (Q := fun v => v.int.res = w ∧ v.z = decide (w = 0#32))
    fun m running instr ⟨opA, opB, _⟩ _ _ => by
      have valueA : m.int.a = s.x[rs1] := opA rs1 (by rw [instr]; rfl)
      have valueB : m.int.b = s.x[rs2] := opB rs2 (by rw [instr]; rfl)
      exact ⟨_, exec_add_of_fits (s := m) rd rs1 rs2 (by rw [valueA, valueB]; exact fits), running, rfl, rfl⟩
  obtain ⟨occ, instr, seq, result⟩ := c.wb
  have running : t.status = .running := c.going.resolve_right (fun h => nomatch h.1)
  have flag : t.z = v.z := c.z.resolve_right (fun h => nomatch h.1)
  have dest : destOf t.wb.instr = some rd := by rw [instr]; rfl
  obtain ⟨u, run, x, retired, clock, dmem⟩ := c.retires running
  refine ⟨⟨a, ticks_one s first, launched.running, aged.oldest.occ, aged.instr, aged.seq, launched.rq, aged.reserved rd rfl, aged.x,
    aged.z⟩, ⟨t, c.run, running, occ, instr, seq, result.trans res, flag.trans z, c.reserved rd rfl, c.x, c.retired⟩,
    ⟨u, run, ?_, retired, clock, dmem.trans c.dmem⟩⟩
  rw [x, State.commitResult_x_of_dest dest, c.x, show t.wb.res = w from result.trans res]

/-- Settles O47. -/
theorem loneMulRetiresInFiveTicks : Obligations.LoneMulRetiresInFiveTicks := by
  intro s rd rs1 rs2 w h fits
  obtain ⟨a, waited, aged⟩ := h.ages (n := 2) (show 2 < latency .mul by decide)
  obtain ⟨v, t, ⟨res, z⟩, c⟩ := h.completes (Q := fun v => v.mul.res = w ∧ v.z = decide (w = 0#32))
    fun m running instr ⟨opA, opB, _⟩ _ _ => by
      have valueA : m.mul.a = s.x[rs1] := opA rs1 (by rw [instr]; rfl)
      have valueB : m.mul.b = s.x[rs2] := opB rs2 (by rw [instr]; rfl)
      exact ⟨_, exec_mul_of_fits (s := m.counted .mul) rd rs1 rs2 (fits.trans (by rw [← valueA, ← valueB]; rfl)), running, rfl, rfl⟩
  obtain ⟨occ, instr, seq, result⟩ := c.wb
  have running : t.status = .running := c.going.resolve_right (fun h => nomatch h.1)
  have flag : t.z = v.z := c.z.resolve_right (fun h => nomatch h.1)
  have dest : destOf t.wb.instr = some rd := by rw [instr]; rfl
  obtain ⟨u, run, x, retired, clock, dmem⟩ := c.retires running
  refine ⟨⟨a, waited, aged.oldest.inv.running, aged.oldest.occ, aged.instr, aged.seq, aged.oldest.busy, aged.oldest.count, aged.x,
    aged.z, aged.retired⟩, ⟨t, c.run, running, occ, instr, seq, result.trans res, flag.trans z, c.reserved rd rfl, c.x, c.retired⟩,
    ⟨u, run, ?_, retired, clock, dmem.trans c.dmem⟩⟩
  rw [x, State.commitResult_x_of_dest dest, c.x, show t.wb.res = w from result.trans res]

/-- Settles O48. -/
theorem loneLoadRetiresInSixTicks : Obligations.LoneLoadRetiresInSixTicks := by
  intro s rd rs1 imm cell h address bound
  obtain ⟨a, waited, aged⟩ := h.ages (n := 3) (show 3 < latency .ls by decide)
  obtain ⟨v, t, ⟨res, z, mem⟩, c⟩ := h.completes
    (Q := fun v => v.ls.res = Memory.read s.dmem cell ∧ v.z = s.z ∧ v.dmem = s.dmem)
    fun m running instr ⟨opA, _, _⟩ cfg data => by
      have valueA : m.ls.a = s.x[rs1] := opA rs1 (by rw [instr]; rfl)
      obtain ⟨z, dmem⟩ := data rfl
      exact ⟨_, exec_load_of_lt (s := m.counted .ls) rd rs1 (address.trans (by rw [← valueA]; rfl)) (cfg ▸ bound), running,
        congrArg (Memory.read · cell) dmem, z, dmem⟩
  obtain ⟨occ, instr, seq, result⟩ := c.wb
  have dest : destOf t.wb.instr = some rd := by rw [instr]; rfl
  have unchanged : t.dmem = s.dmem := c.dmem.trans mem
  refine ⟨⟨a, waited, aged.oldest.inv.running, aged.oldest.occ, aged.instr, aged.seq, aged.oldest.busy, aged.oldest.count, aged.x,
    aged.z, aged.retired⟩, t, c.run, occ, instr, seq, result.trans res, c.reserved rd rfl, c.x, unchanged, c.retired,
    fun noMul => ?_, c.going.imp_right And.right, fun running => ?_⟩
  · exact (c.z.resolve_right fun h => absurd (noMul.symm.trans h.2) (by decide)).trans z
  · obtain ⟨u, run, x, retired, clock, dmem⟩ := c.retires running
    refine ⟨u, run, ?_, retired, clock, dmem.trans unchanged⟩
    rw [x, State.commitResult_x_of_dest dest, c.x, show t.wb.res = _ from result.trans res]

/-- Settles O49. -/
theorem loneStrWritesBeforeItRetires : Obligations.LoneStrWritesBeforeItRetires := by
  intro s rs1 rs2 rs3 cell h address bound
  obtain ⟨a, waited, aged⟩ := h.ages (n := 3) (show 3 < latency .ls by decide)
  obtain ⟨v, t, ⟨z, mem⟩, c⟩ := h.completes (Q := fun v => v.z = s.z ∧ v.dmem = Memory.write s.dmem cell s.x[rs1])
    fun m running instr ⟨opA, opB, opC⟩ cfg data => by
      have valueA : m.ls.a = s.x[rs1] := opA rs1 (by rw [instr]; rfl)
      have valueB : m.ls.b = s.x[rs2] := opB rs2 (by rw [instr]; rfl)
      have valueC : m.ls.c = s.x[rs3] := opC rs3 (by rw [instr]; rfl)
      obtain ⟨z, dmem⟩ := data rfl
      refine ⟨_, exec_str_of_lt (s := m.counted .ls) rs1 rs2 rs3 (address.trans (by rw [← valueB, ← valueC]; rfl)) (cfg ▸ bound),
        running, z, ?_⟩
      show Memory.write m.dmem cell m.ls.a = _
      rw [dmem, valueA]
  obtain ⟨occ, instr, seq, -⟩ := c.wb
  have dest : destOf t.wb.instr = none := by rw [instr]; rfl
  have written : t.dmem = Memory.write s.dmem cell s.x[rs1] := c.dmem.trans mem
  refine ⟨⟨a, waited, aged.oldest.inv.running, aged.oldest.occ, aged.instr, aged.seq, aged.oldest.busy, aged.oldest.count, aged.dmem,
    aged.x, aged.z, aged.retired⟩, t, c.run, occ, instr, seq, written, c.x, c.retired, fun noMul => ?_, c.going.imp_right And.right,
    fun running => ?_⟩
  · exact (c.z.resolve_right fun h => absurd (noMul.symm.trans h.2) (by decide)).trans z
  · obtain ⟨u, run, x, retired, clock, dmem⟩ := c.retires running
    exact ⟨u, run, dmem.trans written, by rw [x, State.commitResult_x_of_none dest, c.x], retired, clock⟩

end Sys2Proof.Machine
end

section
/-! What the Integer unit and the Multiplier compute: O12, O13, O16 to O18. The rules of `fit` carry over to `intArith` and `mulArith`:
a word with the exact value is the result, and under the wrap policy the result is the exact value modulo 2^32. -/

namespace Sys2Proof.Machine

/-! ### The rules of an arithmetic result -/

section
variable {s : State} {v : Int}

/-- 41_integer_alu R200, R201. -/
theorem intArith_of_fits {w : Word} (fits : w.toInt = v) : intArith v s = .next (s.intResult w) := by
  rw [intArith, ← fits, fit_of_toInt]

theorem intArith_wrap (wrap : s.cfg.overflow = .wrap) {w : Word} (low : BitVec.ofInt 32 v = w) :
    intArith v s = .next (s.intResult w) := by
  rw [intArith, wrap, fit_wrap, low]

theorem mulArith_wrap (wrap : s.cfg.overflow = .wrap) {w : Word} (low : BitVec.ofInt 32 v = w) :
    mulArith v s = .next ({ s with mul := { s.mul with res := w } }.setZ w) := by
  rw [mulArith, wrap, fit_wrap, low]

end

/-! ### The low 32 bits of an exact result -/

theorem ofInt_toInt_add (a b : Word) : BitVec.ofInt 32 (a.toInt + b.toInt) = a + b := by
  rw [BitVec.ofInt_add, BitVec.ofInt_toInt, BitVec.ofInt_toInt]

theorem ofInt_toInt_mul (a b : Word) : BitVec.ofInt 32 (a.toInt * b.toInt) = a * b := by
  rw [BitVec.ofInt_mul, BitVec.ofInt_toInt, BitVec.ofInt_toInt]

theorem ofInt_toInt_sub (a b : Word) : BitVec.ofInt 32 (a.toInt - b.toInt) = a - b :=
  BitVec.eq_of_toInt_eq (by rw [BitVec.toInt_ofInt, BitVec.toInt_sub])

/-! ### Addition, subtraction and multiplication -/

/-- Settles O12: each instruction by the rule of its result. -/
theorem arithmeticResultInRange : Obligations.ArithmeticResultInRange := by
  intro s rd rs1 rs2 imm w
  exact ⟨intArith_of_fits, intArith_of_fits, intArith_of_fits, intArith_of_fits, exec_mul_of_fits rd rs1 rs2⟩

/-- A DIV by a divisor other than 0 computes the quotient rounded toward zero (41_integer_alu R213). -/
theorem exec_div_of_ne_zero {s : State} (rd rs1 rs2 : Reg) (divisor : s.int.b ≠ 0#32) :
    exec (.div rd rs1 rs2) s = intArith (s.int.a.toInt.tdiv s.int.b.toInt) s :=
  if_neg divisor

/-- Settles O13: each instruction by the rule of its result and the low 32 bits of its exact value. -/
theorem arithmeticWrapsUnderTheWrapPolicy : Obligations.ArithmeticWrapsUnderTheWrapPolicy := by
  intro s rd rs1 rs2 imm wrap
  refine ⟨intArith_wrap wrap (ofInt_toInt_add _ _), intArith_wrap wrap (ofInt_toInt_add _ _), intArith_wrap wrap (ofInt_toInt_sub _ _),
    intArith_wrap wrap (ofInt_toInt_sub _ _), mulArith_wrap wrap (ofInt_toInt_mul _ _), fun dividend divisor => ?_⟩
  have low : BitVec.ofInt 32 (s.int.a.toInt.tdiv s.int.b.toInt) = BitVec.ofInt 32 minInt := by
    rw [dividend, divisor]
    decide
  rw [exec_div_of_ne_zero rd rs1 rs2 (by rw [divisor]; decide)]
  exact intArith_wrap wrap low

/-! ### Division -/

/-- The quotient rounded toward zero fits a word, but for -2^31 by -1. -/
theorem toInt_sdiv_of_not_overflow {a b : Word} (h : ¬(a.toInt = minInt ∧ b.toInt = -1)) :
    (a.sdiv b).toInt = a.toInt.tdiv b.toInt := by
  apply BitVec.toInt_sdiv_of_ne_or_ne
  by_contra! extremes
  obtain ⟨rfl, rfl⟩ := extremes
  exact h (by decide)

theorem abs_tmod_lt_abs (a : Int) {b : Int} (h : b ≠ 0) : |a.tmod b| < |b| := by
  rw [Int.abs_eq_natAbs, Int.abs_eq_natAbs, Int.natAbs_tmod]
  exact_mod_cast Nat.mod_lt _ (Int.natAbs_pos.mpr h)

theorem tmod_eq_zero_or_pos_iff (a b : Int) : a.tmod b = 0 ∨ (0 < a.tmod b ↔ 0 < a) := by
  by_cases divides : b ∣ a
  · exact .inl (Int.tmod_eq_zero_of_dvd divides)
  · have sign : (a.tmod b).sign = a.sign := by rw [Int.sign_tmod, if_neg divides]
    exact .inr (by rw [← Int.sign_eq_one_iff_pos, sign, Int.sign_eq_one_iff_pos])

/-- Settles O16: the quotient is `BitVec.sdiv`, and the remainder `Int.tmod`. -/
theorem divisionRoundsTowardZero : Obligations.DivisionRoundsTowardZero := by
  intro s rd rs1 rs2 divisor inRange
  have quotient := toInt_sdiv_of_not_overflow inRange
  have nonzero : s.int.b.toInt ≠ 0 := fun h => divisor (BitVec.eq_of_toInt_eq h)
  refine ⟨s.int.a.sdiv s.int.b, s.int.a.toInt.tmod s.int.b.toInt, ?_, ?_, abs_tmod_lt_abs _ nonzero, tmod_eq_zero_or_pos_iff _ _⟩
  · rw [exec_div_of_ne_zero rd rs1 rs2 divisor]
    exact intArith_of_fits quotient
  · rw [quotient, Int.tdiv_mul_add_tmod]

/-! ### The instructions whose result always fits -/

/-- Settles O17: the unit's result is the bitwise operation on the operands, whose bits the library gives. -/
theorem bitwiseResultsBitByBit : Obligations.BitwiseResultsBitByBit := by
  intro s rd rs1 rs2
  exact ⟨⟨s.int.a &&& s.int.b, rfl, fun _ => BitVec.getLsbD_and⟩, ⟨s.int.a ||| s.int.b, rfl, fun _ => BitVec.getLsbD_or⟩,
    ⟨s.int.a ^^^ s.int.b, rfl, fun _ => BitVec.getLsbD_xor⟩⟩

/-- Settles O18: words are equal exactly when their integers are. -/
theorem compareMoveNopAndHaltResults : Obligations.CompareMoveNopAndHaltResults := by
  intro s rd rs1 rs2 imm
  have zero : imm.toInt = 0 ↔ imm = 0#32 := BitVec.toInt_inj (y := 0#32)
  simp only [BitVec.toInt_inj, zero]
  exact ⟨rfl, rfl, rfl, rfl⟩

end Sys2Proof.Machine
end

section
/-! The memory instructions in bounds: O19 and O20. The computation of each names its address and, for a store, the memory it leaves;
the rules of `Memory.read` after `Memory.write` say what that memory holds. -/

namespace Sys2Proof.Machine

/-- An LDR in bounds takes the addressed cell (43_load_store R266). -/
theorem exec_ldr_of_lt {s : State} (rd rs1 rs2 : Reg) {a : Nat} (address : (a : Int) = s.ls.a.toInt + s.ls.b.toInt)
    (bound : a < s.cfg.dmemSize) :
    exec (.ldr rd rs1 rs2) s = .next { s with ls := { s.ls with ea := (a : Int), res := Memory.read s.dmem a } } := by
  show loadCell (s.ls.a.toInt + s.ls.b.toInt) s = _
  rw [← address]
  exact loadCell_valid (validAddress_of_lt bound)

/-- Settles O20: the memory left is one `Memory.write`, which changes the cell it writes and no other. -/
theorem storeWritesTheAddressedCellOnly : Obligations.StoreWritesTheAddressedCellOnly := by
  intro s rs1 rs2 rs3 imm a canonical bound
  have written : Memory.read (Memory.write s.dmem a s.ls.a) a = s.ls.a := Memory.read_write_same canonical a s.ls.a
  have others : ∀ c, c ≠ a → Memory.read (Memory.write s.dmem a s.ls.a) c = Memory.read s.dmem c :=
    fun _ other => Memory.read_write_other s.dmem s.ls.a other
  exact ⟨fun address => ⟨_, exec_store_of_lt rs1 rs2 address bound, written, others⟩,
    fun address => ⟨_, exec_str_of_lt rs1 rs2 rs3 address bound, written, others⟩⟩

/-- Settles O19, by the rules of the two loads in bounds. -/
theorem loadReadsTheAddressedCell : Obligations.LoadReadsTheAddressedCell := by
  intro s rd rs1 rs2 imm a bound
  exact ⟨fun address => exec_load_of_lt rd rs1 address bound, fun address => exec_ldr_of_lt rd rs1 rs2 address bound⟩

end Sys2Proof.Machine
end

section
/-! A HALT alone in the core: O50. The core need not meet the pipeline invariant, so its three ticks are followed through the states
they leave: dispatch to the Integer unit, hand-off to Writeback, and the retirement that ends the run. -/

namespace Sys2Proof.Machine

theorem fetch_disabled {s : State} (noRedirect : s.redirect = false) (disabled : s.fetchEn = false) : fetch s = .next s :=
  (fetchIsSuppressedDisabledOrHeld s).2.1 noRedirect disabled

/-- An instruction alone in the core is dispatched in the first tick (40_pipeline R135 to R142). -/
theorem State.alone.step_dispatches {s : State} {i : Instr} (h : s.alone i) : step s = .next (afterDispatch s.ticked.readOperands) := by
  obtain ⟨running, queue, int, mul, ls, wb, noRedirect, disabled, free, occ, valid, phase, -⟩ := h
  have room : ∀ u, (s.ticked.readOperands.unit u).occ = false := fun u => by cases u <;> assumption
  have notFull : s.ticked.readOperands.rq.length ≠ Config.rqCap := by simp [State.ticked, queue, Config.rqCap]
  have dispatched : decodeStage s.ticked = .next (afterDispatch s.ticked.readOperands) := by
    rw [decodeStage_of_clear (s := s.ticked) occ valid phase (State.hazard_of_clear (s := s.ticked) free _),
      dispatch_of_room (room _) notFull]
  have going : (afterDispatch s.ticked.readOperands).status = .running := by simpa [afterDispatch, State.ticked] using running
  have unredirected : (afterDispatch s.ticked.readOperands).redirect = false := (DecodeKeeps.afterDispatch _).redirect.trans noRedirect
  have stopped : (afterDispatch s.ticked.readOperands).fetchEn = false := by simpa [afterDispatch, State.ticked] using disabled
  rw [step_of_none_inFlight running wb ls mul int, dispatched, Result.andThen_next_of_running _ going,
    fetch_disabled unredirected stopped]

/-- A core whose HALT, alone in it, has just been dispatched. -/
def State.haltDispatched (s : State) : State :=
  { s with
    clock := s.clock + 1#64
    int := { s.readOperands.d.toLatch with instr := .halt, count := 0, st := .busy, occ := true }
    rq := [s.d.seq]
    d := { s.readOperands.d with occ := false } }

theorem State.alone.step_halt {s : State} (h : s.alone .halt) : step s = .next s.haltDispatched := by
  rw [h.step_dispatches]
  obtain ⟨-, queue, -, -, -, -, -, -, -, -, -, -, instr⟩ := h
  simp [afterDispatch, State.haltDispatched, State.reserve, State.setUnit, State.ticked, State.readOperands, unitOf, destOf,
    State.sourceValue, instr, queue]

/-- The HALT of the Integer unit moved to Writeback in one tick. -/
def State.haltHandedOff (s : State) : State :=
  { s with
    clock := s.clock + 1#64
    wb := { s.int with st := .done }
    int := { s.int with occ := false, st := .free } }

/-- With only a HALT in flight, in the Integer unit, and nothing coming after it, the tick hands the HALT to Writeback and changes
nothing else (40_pipeline R145, R150, 44_control R296). -/
theorem step_of_halt_in_int {s : State} (running : s.status = .running) (wb : s.wb.occ = false) (ls : s.ls.occ = false)
    (mul : s.mul.occ = false) (occ : s.int.occ = true) (instr : s.int.instr = .halt) (head : s.rq.head? = some s.int.seq)
    (empty : s.d.occ = false) (noRedirect : s.redirect = false) (disabled : s.fetchEn = false) :
    step s = .next s.haltHandedOff := by
  have instr : s.ticked.int.instr = .halt := instr
  have run : exec s.ticked.int.instr s.ticked = .next s.ticked := by rw [instr]; rfl
  have unit : integer s.ticked = .next s.haltHandedOff :=
    unitStage_computes (s := s.ticked) (u := .int) (v := s.ticked) occ (absurd rfl) head wb (congrArg unitOf instr) run running
  have going : s.haltHandedOff.status = .running := running
  have noDecode : decodeStage s.haltHandedOff = .next s.haltHandedOff := decodeStage_empty empty
  rw [step_of_mul_empty running wb ls mul, unit, Result.andThen_next_of_running _ going, noDecode,
    Result.andThen_next_of_running _ going, fetch_disabled (s := s.haltHandedOff) noRedirect disabled]

/-- The retirement of a HALT writes no register, releases no bit and ends the run (40_pipeline R165, R166). -/
theorem afterRetire_of_halt {s : State} (instr : s.wb.instr = .halt) : afterRetire s =
    { s with rq := s.rq.tail, retired := s.retired + 1#64, wb := { s.wb with occ := false }, status := .halted } := by
  simp [afterRetire, State.commitResult, destOf, instr]

/-- The retirement of a HALT is the last thing its tick does (40_pipeline R122, R166). -/
theorem step_of_halt_in_wb {s : State} (running : s.status = .running) (occ : s.wb.occ = true) (instr : s.wb.instr = .halt)
    (head : s.rq.head? = some s.wb.seq) : step s = .next { s with
      clock := s.clock + 1#64
      rq := s.rq.tail
      retired := s.retired + 1#64
      wb := { s.wb with occ := false }
      status := .halted } := by
  obtain ⟨t, hstep⟩ := step_next s
  obtain ⟨a, b, c, d, e, st⟩ := step_stages running hstep
  have retired := afterRetire_of_halt (s := s.ticked) instr
  obtain rfl := Host.Outcome.next.inj ((writeback_retires (s := s.ticked) occ head).symm.trans st.writeback)
  rw [hstep, st.eq_of_ended (by simp [retired]), retired]
  rfl

/-- Settles O50: a HALT computes nothing and has no destination, so that its three ticks are dispatch, hand-off and a counted
retirement. -/
theorem loneHaltEndsTheRunInThreeTicks : Obligations.LoneHaltEndsTheRunInThreeTicks := by
  intro s h
  have first := h.step_halt
  obtain ⟨running, -, -, mul, ls, wb, noRedirect, disabled, -⟩ := h
  have second : step s.haltDispatched = .next s.haltDispatched.haltHandedOff :=
    step_of_halt_in_int running wb ls mul rfl rfl rfl rfl noRedirect disabled
  have third := step_of_halt_in_wb (s := s.haltDispatched.haltHandedOff) running rfl rfl rfl
  have clock : s.clock + 1#64 + 1#64 + 1#64 = s.clock + 3#64 := by rw [BitVec.add_assoc, BitVec.add_assoc]; rfl
  exact ⟨_, ticks_snoc (ticks_snoc (ticks_one s first) second) third, rfl, rfl, clock, rfl, rfl, rfl, rfl, rfl, rfl, rfl⟩

end Sys2Proof.Machine
end

section
/-! The faults of single instructions, and the stop request: O14, O15, O21, O59. Each instruction's computation raises its fault by one
rule of the operation it shares with others; a stage that runs it ends there (40_pipeline R122). -/

namespace Sys2Proof.Machine

/-! ### Overflow -/

section
variable {s : State} {v : Int} (policy : s.cfg.overflow = .fault) (out : v < -2147483648 ∨ 2147483647 < v)
include policy out

theorem fit_none_of_out : fit s.cfg.overflow v = none := by
  rw [policy]
  refine fit_fault_of_outOfRange ?_
  rw [minInt, maxInt]
  omega

/-- 41_integer_alu R200, R203: the Integer unit writes neither a result nor Z. -/
theorem intArith_overflows : intArith v s = .next (s.raise .overflowFault (some s.int.seq) none) := by
  rw [intArith, fit_none_of_out policy out]

/-- 42_multiply R240, 41_integer_alu R203. -/
theorem mulArith_overflows : mulArith v s = .next (s.raise .overflowFault (some s.mul.seq) none) := by
  rw [mulArith, fit_none_of_out policy out]

end

/-- Settles O14: each instruction by the rule of its result; the one quotient out of range is 2^31. -/
theorem overflowFaultsUnderTheFaultPolicy : Obligations.OverflowFaultsUnderTheFaultPolicy := by
  intro s rd rs1 rs2 imm policy
  refine ⟨intArith_overflows policy, intArith_overflows policy, intArith_overflows policy, intArith_overflows policy,
    mulArith_overflows policy, fun dividend divisor => ?_⟩
  rw [exec_div_of_ne_zero rd rs1 rs2 (by rw [divisor]; decide)]
  exact intArith_overflows policy (by rw [dividend, divisor]; decide)

/-! ### Division by zero -/

theorem exec_div_of_zero {s : State} (rd rs1 rs2 : Reg) (divisor : s.int.b = 0#32) :
    exec (.div rd rs1 rs2) s = .next (s.raise .divideByZeroFault (some s.int.seq) none) :=
  if_pos divisor

/-- Settles O15: at the queue head the Integer unit's turn is the computation, and the fault ends it before the hand-off. -/
theorem divisionByZeroFaults : Obligations.DivisionByZeroFaults := by
  intro s rd rs1 rs2 divisor
  have fault := exec_div_of_zero rd rs1 rs2 divisor
  refine ⟨fault, fun q occ instr queue => ?_⟩
  rw [integer_head occ (congrArg List.head? queue), instr, fault]
  exact Result.andThen_next_of_not_running _ nofun

/-! ### Addresses outside the data memory -/

section
variable {s : State} {i : Instr} {ea : Int} (access : accessAddress i s.ls = some ea) (out : ea < 0 ∨ (s.cfg.dmemSize : Int) ≤ ea)
include access out

/-- An access outside the data memory records its address and raises AddressFault (43_load_store R261, 20_memory R64). -/
theorem exec_addressFault :
    exec i s = .next ({ s with ls := { s.ls with ea := ea } }.raise .addressFault (some s.ls.seq) (some ea)) := by
  have invalid : validAddress s.cfg ea = false := by
    rw [Bool.eq_false_iff, Ne, validAddress_iff]
    omega
  cases i with
  | load => cases access; exact loadCell_invalid invalid
  | store => cases access; exact storeCell_invalid _ invalid
  | ldr => cases access; exact loadCell_invalid invalid
  | str => cases access; exact storeCell_invalid _ invalid
  | _ => cases access

/-- On its final cycle the Load/Store unit raises the fault and hands nothing off, wherever its instruction stands in the queue. -/
theorem loadStore_addressFault (final : s.ls.occ = true ∧ s.ls.st = .busy ∧ s.ls.count = 3 ∧ s.ls.instr = i) : loadStore s =
    .next ({ s with ls := { s.ls with count := 4, ea := ea } }.raise .addressFault (some s.ls.seq) (some ea)) := by
  obtain ⟨occ, busy, last, instr⟩ := final
  have counted : (s.counted .ls).ls = { s.ls with count := 4 } := by simp [State.counted, last]
  have same : accessAddress i (s.counted .ls).ls = accessAddress i s.ls := by rw [counted]; cases i <;> rfl
  have run := exec_addressFault (s := s.counted .ls) (same.trans access) out
  rw [← instr, counted] at run
  exact (runUnit_final_of_exec (u := .ls) occ busy (congrArg Nat.succ last) run).1 nofun

end

/-- Settles O21, by the address each instruction accesses. -/
theorem outOfRangeAddressFaults : Obligations.OutOfRangeAddressFaults := by
  intro s rd rs1 rs2 rs3 imm
  exact ⟨fun out => ⟨exec_addressFault rfl out, loadStore_addressFault rfl out⟩,
    fun out => ⟨exec_addressFault rfl out, loadStore_addressFault rfl out⟩,
    fun out => ⟨exec_addressFault rfl out, loadStore_addressFault rfl out⟩,
    fun out => ⟨exec_addressFault rfl out, loadStore_addressFault rfl out⟩⟩

/-! ### The stop request -/

theorem stop_of_running {s : State} (running : s.status = .running) : stop s = { s with status := .stopped } := by
  simp [stop, running]

theorem stop_of_not_running {s : State} (ended : s.status ≠ .running) : stop s = s := by
  cases status : s.status with
  | running => exact absurd status ended
  | halted | faulted | stopped => simp [stop, status]

/-- Settles O59: a STOPPED core does not tick. -/
theorem stopRequestChangesOnlyTheStatus : Obligations.StopRequestChangesOnlyTheStatus := by
  refine fun s => ⟨fun running => ⟨stop_of_running running, ?_⟩, stop_of_not_running⟩
  rw [stop_of_running running]
  exact tick_of_not_running nofun

end Sys2Proof.Machine
end

section
/-! What a fault records, and which faults a tick raises: O43, O54. A stage that ends a tick FAULTED has just raised the fault, so its
record fits the kind and has the clock of the tick. A core that meets the invariant fails no internal check: with an empty queue only
a marker can fault, and otherwise a fault is a computation's, since the oldest instruction is in Writeback, which retires it at once, or
in a unit, which finds Writeback empty. -/

namespace Sys2Proof.Machine

/-! ### The faults of a computation -/

/-- The faults that a computation raises, with the address of the record (60_exceptions R324 to R326). -/
inductive ComputationFault : FaultKind → Option Int → Prop
  | address (ea : Int) : ComputationFault .addressFault (some ea)
  | divideByZero : ComputationFault .divideByZeroFault none
  | overflow : ComputationFault .overflowFault none

/-- A computation that ends the tick has raised one of its faults, with the seq of its instruction. -/
theorem exec_raises {i : Instr} {s t : State} (running : s.status = .running) (run : exec i s = .next t)
    (ended : t.status ≠ .running) :
    ∃ (v : State) (k : FaultKind) (a : Option Int), ComputationFault k a ∧ t = v.raise k (some (s.unit (unitOf i)).seq) a := by
  cases route : unitOf i with
  | int =>
    rcases exec_int_cases route s with ⟨w, b, e⟩ | ⟨p, e⟩ | ⟨k, e, kind⟩ <;> cases e.symm.trans run
    · exact absurd running ended
    · exact absurd running ended
    · rcases kind with rfl | rfl
      · exact ⟨s, _, _, .overflow, rfl⟩
      · exact ⟨s, _, _, .divideByZero, rfl⟩
  | mul =>
    rcases exec_mul_cases route s with ⟨w, b, e⟩ | e <;> cases e.symm.trans run
    · exact absurd running ended
    · exact ⟨s, _, _, .overflow, rfl⟩
  | ls =>
    obtain ⟨ea, ⟨-, ⟨v, e⟩ | ⟨v, e⟩⟩ | ⟨-, e⟩⟩ := exec_ls_cases route s <;> cases e.symm.trans run
    · exact absurd running ended
    · exact absurd running ended
    · exact ⟨_, _, _, .address ea, rfl⟩

/-! ### The record of a fault -/

/-- The kind is one that a tick raises, and the fields present are those of the kind (60_exceptions R321, R322). -/
structure FaultRecord.FitsKind (r : FaultRecord) : Prop where
  kind : r.kind ≠ .loadFault
  seq : r.seq.isSome = true ↔ r.kind ≠ .fetchFault
  addr : r.addr.isSome = true ↔ (r.kind = .addressFault ∨ r.kind = .fetchFault)

theorem FaultKind.number_bounds {k : FaultKind} (h : k ≠ .loadFault) : 2 ≤ k.number ∧ k.number ≤ 6 := by
  cases k with
  | loadFault => exact absurd rfl h
  | _ => decide

/-- If the core is FAULTED, its record fits its kind and has the current clock as cycle. -/
def State.Recorded (s : State) : Prop :=
  s.status = .faulted → ∃ r, s.fault = some r ∧ r.cycle = s.clock ∧ r.FitsKind

theorem State.Recorded.of_running {s : State} (running : s.status = .running) : s.Recorded := fun faulted => by
  rw [running] at faulted; cases faulted

theorem ComputationFault.recorded {k : FaultKind} {a : Option Int} (h : ComputationFault k a) (s : State) (q : Nat) :
    (s.raise k (some q) a).Recorded := by
  refine fun _ => ⟨_, rfl, rfl, ?_⟩
  cases h <;> exact ⟨by simp, by simp, by simp⟩

theorem State.internalFault_recorded (s : State) (q : Nat) : (s.raise .internalFault (some q) none).Recorded :=
  fun _ => ⟨_, rfl, rfl, by simp, by simp, by simp⟩

theorem State.fetchFault_recorded (s : State) (a : Int) : (s.raise .fetchFault none (some a)).Recorded :=
  fun _ => ⟨_, rfl, rfl, by simp, by simp, by simp⟩

theorem exec_recorded {i : Instr} {s t : State} (running : s.status = .running) (run : exec i s = .next t)
    (ended : t.status ≠ .running) : t.Recorded := by
  obtain ⟨v, k, a, fault, rfl⟩ := exec_raises running run ended
  exact fault.recorded v _

theorem WritebackTick.recorded {s t : State} (h : WritebackTick s t) (running : s.status = .running) : t.Recorded := by
  cases h with
  | idle _ => exact .of_running running
  | fault => exact s.internalFault_recorded _
  | retire _ _ =>
    intro faulted
    by_cases halt : s.wb.instr = .halt <;> simp [afterRetire, halt, running] at faulted

section
variable {s t : State} (running : s.status = .running)
include running

theorem HandOff.recorded {u : UnitId} (h : HandOff u s t) : t.Recorded := by
  cases h with
  | fault => exact s.internalFault_recorded _
  | wait _ => exact .of_running running
  | move _ _ => exact .of_running (by simp [State.handedOff, running])

theorem UnitTick.recorded {u : UnitId} {lat : Nat} (h : UnitTick u lat s t) : t.Recorded := by
  have counted : (s.counted u).status = .running := by simp [State.counted, running]
  cases h with
  | idle _ => exact .of_running running
  | count _ _ _ => exact .of_running counted
  | fault _ _ _ run ended => exact exec_recorded counted run ended
  | final _ _ _ _ going off => exact off.recorded (by simp [State.markDone, going])
  | done _ _ off => exact off.recorded running

theorem IntTick.recorded (h : IntTick s t) : t.Recorded := by
  cases h with
  | idle _ => exact .of_running running
  | noQueue => exact s.internalFault_recorded _
  | fault _ _ run ended => exact exec_recorded running run ended
  | compute _ _ _ going off => exact off.recorded (by simp [State.markDone, going])

theorem Dispatch.recorded (h : Dispatch s t) : t.Recorded := by
  cases h with
  | wait _ => exact .of_running running
  | fault => exact s.internalFault_recorded _
  | go _ => exact .of_running (by simp [afterDispatch, running])

theorem DecodeTick.recorded (h : DecodeTick s t) : t.Recorded := by
  cases h with
  | idle => exact .of_running running
  | fetchFault => exact s.fetchFault_recorded _
  | read _ _ _ go => exact go.recorded (s := s.readOperands) running
  | await _ _ _ go => exact go.recorded running

end

/-- A stage that records its faults, where the tick may have ended before it. -/
theorem StageStep.recorded {f : State → Result} {s t : State} (h : StageStep f s t) (before : s.Recorded)
    (run : s.status = .running → f s = .next t → t.Recorded) : t.Recorded :=
  h.lift (R := fun s t => s.Recorded → t.Recorded) id (fun running h _ => run running h) before

theorem TickStages.recorded {s t a b c d e : State} (st : TickStages s t a b c d e) (running : s.status = .running) : t.Recorded := by
  have ra : a.Recorded := (writeback_tick st.writeback).recorded running
  have rb : b.Recorded := st.loadStore.recorded ra fun running h => (loadStore_tick running h).recorded running
  have rc : c.Recorded := st.multiply.recorded rb fun running h => (multiply_tick running h).recorded running
  have rd : d.Recorded := st.integer.recorded rc fun running h => (integer_tick h).recorded running
  have re : e.Recorded := st.decode.recorded rd fun running h => (decodeStage_tick h).recorded running
  exact st.fetch.recorded re fun running h => .of_running ((fetch_status h).trans running)

theorem WritebackTick.fault_kept {s t : State} (h : WritebackTick s t) (unfaulted : t.status ≠ .faulted) : t.fault = s.fault := by
  cases h with
  | idle _ => rfl
  | fault => exact absurd rfl unfaulted
  | retire _ _ => rfl

/-- A tick that does not end FAULTED leaves the fault record alone. -/
theorem TickStages.fault_kept {s t a b c d e : State} (st : TickStages s t a b c d e) (unfaulted : t.status ≠ .faulted) :
    t.fault = s.fault := by
  rcases st.keeps.fault with ⟨status, fault⟩ | ⟨faulted, -⟩
  · rw [status] at unfaulted
    exact fault.trans ((writeback_tick st.writeback).fault_kept unfaulted)
  · exact absurd faulted unfaulted

/-- Settles O43: whatever stage ends the tick FAULTED has recorded the fault, and the clock is the tick's own in every stage. -/
theorem faultRecordNamesTheFaultingTick : Obligations.FaultRecordNamesTheFaultingTick := by
  intro s t running hstep
  obtain ⟨a, b, c, d, e, st⟩ := step_stages running hstep
  refine ⟨fun faulted => ?_, st.fault_kept⟩
  obtain ⟨r, fault, cycle, fits⟩ := st.recorded running faulted
  obtain ⟨low, high⟩ := FaultKind.number_bounds fits.kind
  exact ⟨r, fault, cycle, st.keeps.clock.trans st.writebackKeeps.clock, low, high, fits.seq, fits.addr⟩

/-! ### The internal checks -/

/-- The queue holds at most one number for each latch in flight (40_pipeline R182). -/
theorem State.FlightOk.rq_length_le {s : State} (f : s.FlightOk) : s.rq.length ≤ 4 := by
  obtain ⟨hs, nodup, -, rq, -, -⟩ := f.queue
  rw [rq, List.length_map]
  exact (List.subperm_of_subset nodup fun k _ => k.mem_all).length_le (l₂ := Holder.all)

/-- No failed internal check is on record (60_exceptions R328). -/
def State.NoInternalFault (s : State) : Prop := ∀ r, s.fault = some r → r.kind ≠ .internalFault

theorem State.NoInternalFault.of_none {s : State} (clear : s.fault = none) : s.NoInternalFault := fun r h => by
  rw [clear] at h; cases h

theorem exec_noInternalFault {i : Instr} {s t : State} (running : s.status = .running) (run : exec i s = .next t)
    (ended : t.status ≠ .running) : t.NoInternalFault := by
  obtain ⟨v, k, a, fault, rfl⟩ := exec_raises running run ended
  rintro r ⟨⟩
  cases fault <;> exact nofun

theorem EndedBy.noInternalFault {v : UnitId} {s t : State} (h : EndedBy v s t) : t.NoInternalFault := by
  obtain ⟨m, running, -, run⟩ := h.run
  exact exec_noInternalFault (by simp [State.counted, running]) run h.ended

namespace HeadTick
variable {u : UnitId} {s t m n d e : State} (k : HeadTick u s t m n d e)
include k

/-- A tick that the head's turn has ended, or a turn before it, leaves what that turn left (40_pipeline R122). -/
theorem eq_of_ended (ended : n.status ≠ .running) : t = n := by
  obtain rfl := k.ended ended
  obtain rfl : e = d := (k.decode.resolve_left fun r => ended r.1).2
  exact (k.fetch.resolve_left fun r => ended r.1).2

/-- Writeback is empty at the turn of the head's unit, so that a computation alone can end the tick there (40_pipeline R145). -/
theorem turn_going_or_raised (h : s.Inv) (running : m.status = .running) (room : s.wb.occ = false) (occ : (s.unit u).occ = true)
    (head : s.rq.head? = some (s.unit u).seq) : n.status = .running ∨ n.NoInternalFault := by
  have computes : s.lastCycle u → n.status = .running ∨ n.NoInternalFault := fun last => by
    obtain ⟨v, run, moved, ended⟩ := k.computes h running room occ head last
    by_cases going : v.status = .running
    · exact .inl (by rw [moved going]; simp [State.handedOff, State.markDone, going])
    · rw [ended going]
      exact .inr (exec_noInternalFault (by cases u <;> simp [State.computing, State.counted, running]) run going)
  by_cases hu : u = .int
  · exact computes fun notInt => absurd hu notInt
  · rcases h.unit_progress occ hu with ⟨busy, -⟩ | ⟨done, -⟩
    · by_cases last : (s.unit u).count + 1 = latency u
      · exact computes fun _ => ⟨busy, last⟩
      · exact .inl (k.counts running hu occ busy last).1
    · rw [← k.own] at occ head done
      rw [← k.rq_before] at head
      rw [← k.wb_before] at room
      have moved := unitStage_done running hu occ done head room
      rw [Host.Outcome.next.inj ((k.unitStage_eq running).symm.trans moved)]
      exact .inl (by simp [State.handedOff, running])

/-- With the oldest instruction in a unit, a computation alone can end the tick. -/
theorem going_or_raised (h : s.Inv) (room : s.wb.occ = false) (occ : (s.unit u).occ = true)
    (head : s.rq.head? = some (s.unit u).seq) : t.status = .running ∨ t.NoInternalFault := by
  rcases k.before.going with running | ⟨v, -, raised⟩
  · by_cases going : n.status = .running
    · exact (k.going_or_ended going).imp_right fun ⟨v, _, raised⟩ => raised.noInternalFault
    · rw [k.eq_of_ended going]
      exact k.turn_going_or_raised h running room occ head
  · obtain rfl : n = m := (k.turn.resolve_left fun r => raised.ended r.1).2
    exact .inr (k.eq_of_ended raised.ended ▸ raised.noInternalFault)

end HeadTick

section
variable {s t : State} (h : s.Inv)
include h

/-- A core that meets the invariant and is still RUNNING after a tick has no fault record. -/
theorem State.Inv.noInternalFault_of_running (hstep : step s = .next t) (running : t.status = .running) : t.NoInternalFault :=
  .of_none (everyTickKeepsThePipelineInvariant s t h hstep running).noFault

/-- With an empty queue a tick can report a marker, and raises no other fault (40_pipeline R131, R186). -/
theorem State.Inv.noInternalFault_of_rq_nil (queue : s.rq = []) (hstep : step s = .next t) : t.NoInternalFault := by
  obtain ⟨dispatches, reports, fetches⟩ := emptyQueueMakesProgress s h queue
  cases occ : s.d.occ with
  | false =>
    obtain ⟨v, e, running, -⟩ := fetches occ
    cases e.symm.trans hstep
    exact h.noInternalFault_of_running hstep running
  | true =>
    cases marked : s.d.invalid with
    | false =>
      obtain ⟨v, e, running, -⟩ := dispatches occ marked
      cases e.symm.trans hstep
      exact h.noInternalFault_of_running hstep running
    | true =>
      obtain ⟨v, r, e, -, fault, kind, -⟩ := reports occ marked
      cases e.symm.trans hstep
      rintro r' fault'
      obtain rfl := Option.some.inj (fault.symm.trans fault')
      rw [kind]
      decide

/-- With Writeback empty the queue is empty or its head is in a unit. -/
theorem State.Inv.noInternalFault_of_room (room : s.wb.occ = false) (hstep : step s = .next t) : t.NoInternalFault := by
  by_cases queue : s.rq = []
  · exact h.noInternalFault_of_rq_nil queue hstep
  · obtain ⟨u, occ, head⟩ := h.exists_head_unit room queue
    obtain ⟨m, n, d, e, k⟩ := h.headTick room occ head hstep
    rcases k.going_or_raised h room occ head with running | raised
    · exact h.noInternalFault_of_running hstep running
    · exact raised

/-- A tick that retires an instruction other than HALT goes on as the tick of the core without it (40_pipeline R165). -/
theorem State.Inv.step_eq_step_afterRetire (occ : s.wb.occ = true) (notHalt : s.wb.instr ≠ .halt) : step s = step (afterRetire s) := by
  have x : s.ticked.commitResult.x = s.commitResult.x := by rw [State.commitResult_x, State.commitResult_x]; rfl
  have sb : s.ticked.commitResult.sb = s.commitResult.sb := by rw [State.commitResult_sb, State.commitResult_sb]; rfl
  have ticked : afterRetire s.ticked = (afterRetire s).ticked := by
    rw [afterRetire, x, sb]
    rfl
  have running : (afterRetire s).status = .running := by simp [afterRetire, notHalt, h.running]
  have going : (afterRetire s).ticked.status = .running := running
  rw [step_of_wb_empty running rfl, tick_of_running h.running, ← State.ticked, h.writeback_retires occ, ticked,
    Result.andThen_next_of_running _ going]

/-- With an instruction in Writeback the tick is one of a core with Writeback empty, unless it ends with the retirement of HALT. -/
theorem State.Inv.noInternalFault_of_wb (occ : s.wb.occ = true) (hstep : step s = .next t) : t.NoInternalFault := by
  by_cases halt : s.wb.instr = .halt
  · cases (step_of_halt_in_wb h.running occ halt (h.wb_head occ)).symm.trans hstep
    exact .of_none h.noFault
  · have running : (afterRetire s).status = .running := by simp [afterRetire, halt, h.running]
    exact (h.retire occ running).noInternalFault_of_room rfl ((h.step_eq_step_afterRetire occ halt).symm.trans hstep)

end

/-- Settles O54: each occupied latch accounts for one entry of the queue, and a tick finds its oldest instruction in Writeback or in a
unit. -/
theorem internalFaultsAreUnreachable : Obligations.InternalFaultsAreUnreachable := by
  intro s t h hstep
  refine ⟨h.flightOk.rq_length_le, ?_⟩
  cases wb : s.wb.occ with
  | true => exact h.noInternalFault_of_wb wb hstep
  | false => exact h.noInternalFault_of_room wb hstep

end Sys2Proof.Machine
end

section
/-! A MUL that decides an older BZ in the tick of its last cycle, and the empty table: O52, O8. Whether the BZ is at the queue head or
comes there by a retirement, Writeback leaves it at the head; the units then run in the order Load/Store, Multiplier, Integer
(40_pipeline R120), so that the BZ reads the Z of the product. -/

namespace Sys2Proof.Machine

/-! ### The units before the branch -/

theorem StageStep.eq_next {f : State → Result} {s t : State} (h : StageStep f s t) (running : s.status = .running) : f s = .next t :=
  (h.resolve_right fun ended => ended.1 running).2

/-- The Load/Store unit makes no access out of bounds in this tick. -/
def State.AccessInBounds (s : State) : Prop :=
  s.finalCycle .ls → ∀ ea, accessAddress s.ls.instr s.ls = some ea → validAddress s.cfg ea = true

/-- A Load/Store computation in bounds raises nothing (43_load_store R261). -/
theorem exec_running_of_inBounds {i : Instr} {s t : State} (running : s.status = .running) (route : unitOf i = .ls)
    (inBounds : ∀ ea, accessAddress i s.ls = some ea → validAddress s.cfg ea = true) (run : exec i s = .next t) :
    t.status = .running := by
  cases i with
  | load => cases (loadCell_valid (inBounds _ rfl)).symm.trans run; exact running
  | store => cases (storeCell_valid _ (inBounds _ rfl)).symm.trans run; exact running
  | ldr => cases (loadCell_valid (inBounds _ rfl)).symm.trans run; exact running
  | str => cases (storeCell_valid _ (inBounds _ rfl)).symm.trans run; exact running
  | _ => cases route

/-- The count of cycles does not enter into the address. -/
theorem accessAddress_counted (i : Instr) (s : State) : accessAddress i (s.counted .ls).ls = accessAddress i s.ls := by
  cases i <;> rfl

/-- Behind the queue head the Load/Store unit ends no tick with an access in bounds. -/
theorem loadStore_waits_inBounds {u : UnitId} {s t : State} (running : s.status = .running) (routed : s.routed) (head : s.HeadIn u)
    (notLs : .ls ≠ u) (inBounds : s.AccessInBounds) (h : loadStore s = .next t) : Waits .ls s t ∧ t.status = .running := by
  have waits : Waits .ls s t := unitStage_waits running routed head notLs h
  refine ⟨waits, waits.going.resolve_right fun ⟨final, ended, _⟩ => ?_⟩
  obtain ⟨occ, busy, last⟩ := id final
  have route : unitOf s.ls.instr = .ls := routed.2.2 occ
  obtain ⟨v, run⟩ := exec_next s.ls.instr (s.counted .ls)
  have going : v.status = .running := exec_running_of_inBounds (s := s.counted .ls) running route
    (fun ea access => inBounds final ea (accessAddress_counted _ s ▸ access)) run
  obtain ⟨q, qs, queue⟩ := List.exists_cons_of_ne_nil head.queue
  have front : s.rq.head? = some q := congrArg List.head? queue
  have seq : (v.unit .ls).seq = s.ls.seq := ((exec_computing_sameInstr (u := .ls) route run).2 occ).2.1
  have done := runUnit_final_waits (u := .ls) occ busy last run going ((congrArg List.head? (exec_effect run).keeps.rq).trans front)
    fun e => head.behind .ls notLs occ (front.trans (congrArg some (e.trans seq)))
  cases done.symm.trans h
  exact ended going

/-- A BZ is at the queue head with Writeback empty, and a MUL with product `w` is on its final cycle (70_reset R372). -/
structure Shadowed (s : State) (imm w : Word) : Prop where
  inv : s.Inv
  room : s.wb.occ = false
  branch : s.int.occ = true ∧ s.int.instr = .bz imm
  head : s.rq.head? = some s.int.seq
  final : s.mul.occ = true ∧ s.mul.st = .busy ∧ s.mul.count = 2
  product : ∃ rd rs1 rs2, s.mul.instr = .mul rd rs1 rs2 ∧ w.toInt = s.mul.a.toInt * s.mul.b.toInt

theorem Shadowed.headIn {s : State} {imm w : Word} (h : Shadowed s imm w) : s.HeadIn .int :=
  h.inv.headIn (u := .int) h.branch.1 h.head

/-- The Load/Store unit's turn leaves the branch and the MUL where they are. -/
theorem Shadowed.after_loadStore {s t : State} {imm w : Word} (h : Shadowed s imm w) (inBounds : s.AccessInBounds)
    (st : StageStep loadStore s t) : Shadowed t imm w := by
  have run := st.eq_next h.inv.running
  obtain ⟨waits, running⟩ := loadStore_waits_inBounds h.inv.running (State.routed_of_inv h.inv) h.headIn (by decide) inBounds run
  have int : t.int = s.int := waits.unit .int (by decide)
  have mul : t.mul = s.mul := waits.unit .mul (by decide)
  exact {
    inv := (loadStore_tick h.inv.running run).inv h.inv running (by decide) fun _ => .rfl
    room := waits.wb ▸ h.room
    branch := int ▸ h.branch
    head := by rw [waits.rq, int, h.head]
    final := mul ▸ h.final
    product := mul ▸ h.product }

/-- A MUL has computed the product `w` on its final cycle. -/
def State.multiplied (s : State) (w : Word) : State :=
  { s with mul := { s.mul with count := 3, res := w, st := .done }, z := decide (w = 0#32) }

/-- The MUL writes its product and Z, and waits behind the BZ (40_pipeline R156). -/
theorem Shadowed.multiply_eq {s : State} {imm w : Word} (h : Shadowed s imm w) : multiply s = .next (s.multiplied w) := by
  obtain ⟨occ, busy, count⟩ := h.final
  obtain ⟨rd, rs1, rs2, instr, fits⟩ := h.product
  obtain ⟨q, queue⟩ := List.head?_eq_some_iff.mp h.head
  obtain ⟨-, -, -, waits, -⟩ := multiplierComputesOnItsThirdCycle s h.inv.running
  exact waits rd rs1 rs2 w s.int.seq q occ busy count instr fits queue fun same =>
    h.headIn.behind .mul (by decide) occ (h.head.trans (congrArg some same))

/-! ### The branch -/

/-- A BZ at the queue head with Writeback empty redirects exactly when Z is set, and goes to Writeback (40_pipeline R151, 44_control
R290). -/
theorem integer_bz {s : State} {imm : Word} (running : s.status = .running) (occ : s.int.occ = true) (instr : s.int.instr = .bz imm)
    (head : s.rq.head? = some s.int.seq) (room : s.wb.occ = false) : integer s =
      .next (((if s.z = true then s.redirectTo (branchTarget s.int.pc imm) else s).markDone .int).handedOff .int) := by
  refine unitStage_computes (u := .int) occ (absurd rfl) head room (congrArg unitOf instr) ?_ (by split <;> exact running)
  rw [State.unit_int, instr]
  rfl

/-- From `s` to `d` the product `w` has decided the BZ of the Integer unit, which is in Writeback (70_reset R372). -/
structure Decided (s d : State) (imm w : Word) : Prop where
  running : d.status = .running
  z : d.z = decide (w = 0#32)
  mul : d.mul.occ = true ∧ d.mul.st = .done ∧ d.mul.res = w
  wb : d.wb.occ = true ∧ d.wb.instr = .bz imm ∧ d.wb.seq = s.int.seq
  taken : w = 0#32 → d.pc = s.int.pc + imm.toInt ∧ d.redirect = true ∧ d.fetchEn = true ∧ d.d.occ = false
  passed : w ≠ 0#32 → d.pc = s.pc ∧ d.d = s.d

/-- What the MUL has written is what the BZ reads. -/
theorem Shadowed.decided {s c d : State} {imm w : Word} (h : Shadowed s imm w) (second : StageStep multiply s c)
    (third : StageStep integer c d) : Decided s d imm w := by
  have running := h.inv.running
  obtain ⟨occ, instr⟩ := h.branch
  cases h.multiply_eq.symm.trans (second.eq_next running)
  have run := third.eq_next running
  rw [integer_bz (s := s.multiplied w) running occ instr h.head h.room, show (s.multiplied w).z = decide (w = 0#32) from rfl] at run
  by_cases zero : w = 0#32
  · rw [if_pos (decide_eq_true zero)] at run
    cases run
    exact ⟨running, rfl, ⟨h.final.1, rfl, rfl⟩, ⟨occ, instr, rfl⟩, fun _ => ⟨rfl, rfl, rfl, rfl⟩, absurd zero⟩
  · rw [if_neg (by simp [zero])] at run
    cases run
    exact ⟨running, rfl, ⟨h.final.1, rfl, rfl⟩, ⟨occ, instr, rfl⟩, fun e => absurd e zero, fun _ => ⟨rfl, rfl⟩⟩

/-- The branch is decided as it stood when the tick began. -/
theorem Decided.congr {s r d : State} {imm w : Word} (h : Decided s d imm w) (int : s.int = r.int) (pc : s.pc = r.pc)
    (latch : s.d = r.d) : Decided r d imm w :=
  ⟨h.running, h.z, h.mul, int ▸ h.wb, int ▸ h.taken, pc ▸ latch ▸ h.passed⟩

/-! ### Decode and Fetch behind the branch -/

section
variable {s t a b c d e : State} (st : TickStages s t a b c d e)
include st

/-- With something in flight Decode and Fetch raise no fault. -/
theorem TickStages.running_of_units (h : s.Inv) (running : d.status = .running) (queue : d.rq ≠ []) : t.status = .running := by
  have decoded : e.status = .running := by
    have dec := st.decode.eq_next running
    cases occ : d.d.occ with
    | false => cases (decodeStage_empty occ).symm.trans dec; exact running
    | true => exact decode_running (st.flightOk h running occ) running queue dec
  exact (fetch_status (st.fetch.eq_next decoded)).trans decoded

/-- Decode and Fetch leave Writeback, an instruction in the Multiplier and Z alone. -/
theorem TickStages.kept_after_units (occ : d.mul.occ = true) : t.wb = d.wb ∧ t.mul = d.mul ∧ t.z = d.z := by
  have mul : e.mul = d.mul :=
    (decode_unit st.decode .mul).resolve_right fun entered => absurd (occ.symm.trans entered.1) (by decide)
  exact ⟨(fetch_wb st.fetch).trans (decode_wb st.decode), ((fetch_keeps st.fetch).unit .mul).trans mul,
    (fetch_keeps st.fetch).z.trans (decode_keeps st.decode).z⟩

end

theorem Dispatch.held_or_queued {s t : State} (h : Dispatch s t) (occ : s.d.occ = true) (running : t.status = .running) :
    (t.d.occ = true ∧ t.d.seq = s.d.seq) ∨ t.rq.getLast? = some s.d.seq := by
  cases h with
  | wait _ => exact .inl ⟨occ, rfl⟩
  | fault => cases running
  | go _ => exact .inr (by simp [afterDispatch])

/-- Decode holds its instruction or appends it to the queue (40_pipeline R131 to R142). -/
theorem decodeStage_held_or_queued {s t : State} (h : decodeStage s = .next t) (occ : s.d.occ = true) (running : t.status = .running) :
    (t.d.occ = true ∧ t.d.seq = s.d.seq) ∨ t.rq.getLast? = some s.d.seq := by
  cases decodeStage_tick h with
  | idle => exact .inl ⟨occ, rfl⟩
  | fetchFault => cases running
  | read _ _ _ go => exact go.held_or_queued occ running
  | await _ _ _ go => exact go.held_or_queued occ running

/-- With something in flight Decode and Fetch hold a marker (40_pipeline R127, R132). -/
theorem marker_held {d e t : State} (occ : d.d.occ = true) (marked : d.d.invalid = true) (queue : d.rq ≠ [])
    (dec : decodeStage d = .next e) (fet : fetch e = .next t) : t.d = d.d := by
  cases ((markerFaultsOnlyWithAnEmptyQueue d).2.2 occ marked queue).symm.trans dec
  obtain ⟨_, _, _, _, _, rfl, kept⟩ := fetch_eq_with fet
  exact kept occ

/-- Fetch leaves an instruction that Decode holds, and the queue. -/
theorem held_or_queued {d e t : State} (occ : d.d.occ = true) (dec : decodeStage d = .next e) (running : e.status = .running)
    (fet : fetch e = .next t) : (t.d.occ = true ∧ t.d.seq = d.d.seq) ∨ t.rq.getLast? = some d.d.seq := by
  obtain ⟨_, _, _, _, _, rfl, kept⟩ := fetch_eq_with fet
  exact (decodeStage_held_or_queued dec occ running).imp_left fun held => by rw [kept held.1]; exact held

/-- After a redirect Decode and Fetch only clear its flag (40_pipeline R125, R170). -/
theorem eq_of_redirected {d e t : State} (redirect : d.redirect = true) (empty : d.d.occ = false) (dec : decodeStage d = .next e)
    (fet : fetch e = .next t) : t = { d with redirect := false } := by
  cases (decodeStage_empty empty).symm.trans dec
  exact (Host.Outcome.next.inj (((fetchIsSuppressedDisabledOrHeld d).1 redirect).symm.trans fet)).symm

/-- Writeback leaves the BZ at the queue head, wherever it was (40_pipeline R165). -/
theorem TickStages.branch_at_head {s t a b c d e : State} {q : List Nat} (st : TickStages s t a b c d e) (h : s.Inv)
    (occ : s.int.occ = true)
    (order : (s.wb.occ = false ∧ s.rq = s.int.seq :: q) ∨ (s.wb.occ = true ∧ s.rq = s.wb.seq :: s.int.seq :: q)) :
    a.Inv ∧ a.wb.occ = false ∧ a.rq.head? = some s.int.seq := by
  rcases order with ⟨room, queue⟩ | ⟨wb, queue⟩
  · cases (writeback_empty (s := s.ticked) room).symm.trans st.writeback
    exact ⟨h.withClock _, room, congrArg List.head? queue⟩
  · have notHalt : s.wb.instr ≠ .halt := fun halt => by
      obtain ⟨-, -, empty, -⟩ := h.haltInWb wb halt
      exact absurd (occ.symm.trans empty) (by decide)
    obtain rfl := st.eq_afterRetire h wb
    have running : (afterRetire s.ticked).status = .running := by simp [afterRetire, State.ticked, notHalt, h.running]
    exact ⟨State.Inv.retire (s := s.ticked) (h.withClock _) wb running, rfl, congrArg (fun r : List Nat => r.tail.head?) queue⟩

/-- The units decide the branch: the MUL before the BZ, and the Load/Store unit before both (40_pipeline R120). -/
theorem TickStages.decided {s t a b c d e : State} {imm w : Word} (st : TickStages s t a b c d e) (h : Shadowed a imm w)
    (inBounds : a.AccessInBounds) : Decided s d imm w := by
  have before := st.writebackKeeps
  have waits := loadStore_others st.loadStore (State.routed_of_inv h.inv)
  exact ((h.after_loadStore inBounds st.loadStore).decided st.multiply st.integer).congr
    ((waits.unit .int (by decide)).trans (before.unit .int)) (waits.pc.trans before.pc) (waits.d.trans before.d)

/-- Settles O52: the units decide the branch; Decode and Fetch leave that decision and go on behind it. -/
theorem shadowMulDecidesTheOlderBranch : Obligations.ShadowMulDecidesTheOlderBranch := by
  intro s rd rs1 rs2 imm w q h occ instr order mulOcc busy count mul fits inBounds
  obtain ⟨t, hstep⟩ := step_next s
  obtain ⟨a, b, c, d, e, st⟩ := step_stages h.running hstep
  have same := st.writebackKeeps
  have sameInt : a.int = s.int := same.unit .int
  have sameMul : a.mul = s.mul := same.unit .mul
  have sameLs : a.ls = s.ls := same.unit .ls
  obtain ⟨ia, room, head⟩ := st.branch_at_head h occ order
  have shadowed : Shadowed a imm w :=
    { inv := ia
      room := room
      branch := sameInt ▸ ⟨occ, instr⟩
      head := sameInt ▸ head
      final := sameMul ▸ ⟨mulOcc, busy, count⟩
      product := sameMul ▸ ⟨rd, rs1, rs2, mul, fits⟩ }
  have decided : Decided s d imm w := st.decided shadowed fun ⟨lsOcc, _, last⟩ ea access => by
    rw [sameLs] at lsOcc last access
    rw [validAddress_iff, same.cfg]
    exact inBounds ea lsOcc (Nat.succ.inj last) access
  have queue : d.rq ≠ [] := st.unitsKeep.rq ▸ shadowed.headIn.queue
  have running := st.running_of_units h decided.running queue
  obtain ⟨decoded, fet⟩ := st.fetch.of_running running
  obtain ⟨-, dec⟩ := st.decode.of_running decoded
  obtain ⟨keptWb, keptMul, keptZ⟩ := st.kept_after_units decided.mul.1
  obtain ⟨mulOcc, done, res⟩ := keptMul ▸ decided.mul
  obtain ⟨wbOcc, wbInstr, wbSeq⟩ := keptWb ▸ decided.wb
  refine ⟨t, hstep, running, keptZ.trans decided.z, mulOcc, done, res, wbOcc, wbInstr, wbSeq, fun zero => ?_, fun nonzero => ?_⟩
  · obtain ⟨pc, redirect, enabled, empty⟩ := decided.taken zero
    rw [eq_of_redirected redirect empty dec fet]
    exact ⟨pc, enabled, empty⟩
  · obtain ⟨pc, latch⟩ := decided.passed nonzero
    have advances : t.pc = e.pc ∨ t.pc = e.pc + 4 := (fetch_keeps st.fetch).pc.imp_right And.right
    rw [(decode_keeps st.decode).pc, pc] at advances
    rw [← latch]
    exact ⟨advances, fun occ marked => marker_held occ marked queue dec fet, fun occ _ => held_or_queued occ dec decoded fet⟩

/-! ### The empty table -/

/-- With nothing in flight a marker in Decode ends the tick with a FetchFault at its own pc (40_pipeline R131). -/
theorem step_reports_marker {s : State} (running : s.status = .running) (wb : s.wb.occ = false) (ls : s.ls.occ = false)
    (mul : s.mul.occ = false) (int : s.int.occ = false) (queue : s.rq = []) (occ : s.d.occ = true) (marked : s.d.invalid = true) :
    ∃ t, step s = .next t ∧ t.status = .faulted ∧
      t.fault = some { kind := .fetchFault, seq := none, addr := some s.d.pc, cycle := s.clock + 1#64 } := by
  refine ⟨s.ticked.raise .fetchFault none (some s.d.pc), ?_, rfl, rfl⟩
  rw [step_of_none_inFlight running wb ls mul int, (markerFaultsOnlyWithAnEmptyQueue s.ticked).2.1 occ marked queue,
    Result.andThen_next_of_not_running _ (by simp)]
  rfl

/-- Settles O8: no slot answers in tick 1, and Decode finds the marker with the queue empty in tick 2. -/
theorem emptyTableFaultsInTickTwo : Obligations.EmptyTableFaultsInTickTwo := by
  intro cfg
  obtain ⟨m, occ, marked, pc, placed⟩ := invalidFetchPlacesTheMarker (State.constructed cfg []).ticked rfl rfl rfl nofun
  have first : step (State.constructed cfg []) = .next { (State.constructed cfg []).ticked with d := m, fetchEn := false } := by
    rw [step_of_none_inFlight rfl rfl rfl rfl rfl, decodeStage_empty rfl, Result.andThen_next_of_running _ rfl, placed]
  obtain ⟨u, second, ended, fault⟩ := step_reports_marker
    (s := { (State.constructed cfg []).ticked with d := m, fetchEn := false }) rfl rfl rfl rfl rfl rfl occ marked
  refine ⟨_, _, u, rfl, first, second, rfl, occ, marked, pc, rfl, ended, ?_⟩
  rw [fault, pc]
  rfl

end Sys2Proof.Machine
end

section
/-! The loader and construction: O5 to O7. A record is refused for a field out of range or for its opcode; a table is refused at the
first slot its loader refuses, and otherwise loads slot by slot. -/

namespace Sys2Proof.Machine

/-! ### Records -/

theorem exists_instrOf_eq_ok_iff (op : Nat) (rd rs1 rs2 rs3 : Reg) (imm : Word) :
    (∃ i, instrOf op rd rs1 rs2 rs3 imm = .ok i) ↔ op < 19 := by
  rw [← not_le, ← exists_instrOf_eq_error_iff op rd rs1 rs2 rs3 imm]
  cases instrOf op rd rs1 rs2 rs3 imm <;> simp

/-- Settles O5: a record with every field in range is refused for its opcode only. -/
theorem recordsLoadExactlyWhenWellFormed : Obligations.RecordsLoadExactlyWhenWellFormed := by
  intro r
  rw [wellFormed_iff, Record.toInstr]
  split
  · next regs =>
    split
    · next imm => simp only [exists_instrOf_eq_ok_iff, regs, imm, and_self, and_true]
    · next imm => simp only [imm, and_false, reduceCtorEq, exists_false]
  · next regs => simp only [regs, false_and, and_false, reduceCtorEq, exists_false]

/-! ### Tables -/

section
variable {α : Type} {load : α → Except LoadReason Instr} {slots : List α}

/-- A table whose every slot loads, loads slot by slot (60_exceptions R323). -/
theorem loadTable_of_legal {code : List Instr} (legal : slots.map load = code.map Except.ok) (k : Nat) :
    loadTable load k slots = .ok code := by
  induction slots generalizing code k with
  | nil => rw [List.map_eq_nil_iff.mp legal.symm]; rfl
  | cons w ws ih =>
    obtain ⟨i, is, rfl, first, rest⟩ := List.map_eq_cons_iff.mp legal.symm
    simp only [loadTable, ← first, ih rest.symm (k + 1)]

/-- A table with a refused slot fails at the first such slot, for that slot's reason (60_exceptions R323; log 11). -/
theorem loadTable_of_illegal (illegal : ∃ w ∈ slots, ∃ r, load w = .error r) (k : Nat) :
    ∃ j w r, slots[j]? = some w ∧ load w = .error r ∧ (∀ i, i < j → ∀ v, slots[i]? = some v → ∃ a, load v = .ok a) ∧
      loadTable load k slots = .error (.loadFault (k + j) r) := by
  induction slots generalizing k with
  | nil => simp at illegal
  | cons w ws ih =>
    cases first : load w with
    | error r => exact ⟨0, w, r, rfl, first, nofun, by simp only [loadTable, first, Nat.add_zero]⟩
    | ok a =>
      have later : ∃ v ∈ ws, ∃ r, load v = .error r := by simpa [first] using illegal
      obtain ⟨j, v, r, slot, refused, before, fails⟩ := ih later (k + 1)
      refine ⟨j + 1, v, r, slot, refused, fun i hi u hu => ?_, ?_⟩
      · cases i with
        | zero => exact ⟨a, Option.some.inj hu ▸ first⟩
        | succ i => exact before i (Nat.lt_of_succ_lt_succ hi) u hu
      · simp only [loadTable, first, fails, Nat.succ_add_eq_add_succ k j]

end

theorem construct_of_legal {words : List CodeWord} {code : List Instr} (legal : words.map decode = code.map Except.ok)
    (cfg : Config) : construct cfg words = .next (State.constructed cfg code) := by
  rw [construct, loadTable_of_legal legal]
  rfl

theorem construct_of_illegal {words : List CodeWord} (illegal : ∃ w ∈ words, ∃ r, decode w = .error r) (cfg : Config) :
    ∃ k w r, words[k]? = some w ∧ decode w = .error r ∧ (∀ j, j < k → ∀ v, words[j]? = some v → ∃ i, decode v = .ok i) ∧
      construct cfg words = .fault (.loadFault k r) := by
  obtain ⟨k, w, r, slot, refused, before, fails⟩ := loadTable_of_illegal illegal 0
  exact ⟨k, w, r, slot, refused, before, by rw [construct, fails, Nat.zero_add]; rfl⟩

/-- Settles O6. -/
theorem constructionAcceptsExactlyLegalTables : Obligations.ConstructionAcceptsExactlyLegalTables := by
  intro cfg words
  refine ⟨fun legal => ?_, fun illegal => construct_of_illegal illegal cfg⟩
  have loads : words.map decode ∈ Set.range (List.map Except.ok) := by
    rw [Set.range_list_map]
    intro d hd
    obtain ⟨w, hw, rfl⟩ := List.mem_map.mp hd
    exact (legal w hw).imp fun _ => Eq.symm
  obtain ⟨code, same⟩ := loads
  exact ⟨code, construct_of_legal same.symm cfg, same.symm⟩

/-- Settles O7: the components of `State.constructed`. -/
theorem constructionSetsEveryResetValue : Obligations.ConstructionSetsEveryResetValue := by
  intro cfg words
  refine ⟨fun illegal => ?_, fun code legal => ⟨_, construct_of_legal legal cfg, ?_⟩⟩
  · obtain ⟨k, -, r, -, -, -, fails⟩ := construct_of_illegal illegal cfg
    exact ⟨k, r, fails⟩
  · simp [State.constructed, Latch.empty, DecodeLatch.empty]

end Sys2Proof.Machine
end

section
/-! The effects of single operations in all their cases: a branch's redirect, Fetch at a slot, the hand-off, Writeback and the Integer
unit: O22, O25, O31, O32, O35. -/

namespace Sys2Proof.Machine

/-! ### Branches -/

section
variable {s : State} (imm : Word)

theorem exec_bz_taken (zero : s.z = true) : exec (.bz imm) s = .next (s.redirectTo (branchTarget s.int.pc imm)) := by
  simp only [exec, execBz, if_pos zero]

theorem exec_bz_passed (nonzero : s.z = false) : exec (.bz imm) s = .next s := by
  simp only [exec, execBz, nonzero, Bool.false_eq_true, if_false]

theorem exec_bnz_taken (nonzero : s.z = false) : exec (.bnz imm) s = .next (s.redirectTo (branchTarget s.int.pc imm)) := by
  simp only [exec, execBnz, if_pos nonzero]

theorem exec_bnz_passed (zero : s.z = true) : exec (.bnz imm) s = .next s := by
  simp only [exec, execBnz, zero, Bool.true_eq_false, if_false]

end

/-- Settles O22: the state after a taken branch is `State.redirectTo` the branch's target. -/
theorem branchRedirectsWhenTaken : Obligations.BranchRedirectsWhenTaken :=
  fun _ imm => ⟨exec_bz_taken imm, exec_bz_passed imm, exec_bnz_taken imm, exec_bnz_passed imm⟩

/-! ### Fetch -/

/-- Settles O25: the pc names slot `k`, and `fetched` is what Fetch puts into the Decode latch. -/
theorem fetchFillsDecodeFromTheSlot : Obligations.FetchFillsDecodeFromTheSlot := by
  intro s k i noRedirect enabled empty slot pc
  have names : s.fetchSlot s.pc = some (k, i) := pc ▸ State.fetchSlot_of_slot slot
  exact ⟨fetched s k i, rfl, rfl, rfl, rfl, rfl, rfl, fetch_of_slot noRedirect enabled empty names⟩

/-! ### The hand-off -/

theorem handOff_noQueue {u : UnitId} {s : State} (queue : s.rq = []) :
    handOff u s = .next (s.raise .internalFault (some (s.unit u).seq) none) := by
  rw [handOff_eq, if_pos queue]

theorem handOff_noRoom {u : UnitId} {s : State} {q : List Nat} (queue : s.rq = (s.unit u).seq :: q) (full : s.wb.occ = true) :
    handOff u s = .next (s.raise .internalFault (some (s.unit u).seq) none) := by
  rw [handOff_eq, if_neg (by simp [queue]), if_neg (by simp [queue]), if_pos full]

/-- Settles O31, one lemma per case. -/
theorem handOffFollowsTheQueueHead : Obligations.HandOffFollowsTheQueueHead := by
  intro u s
  exact ⟨handOff_noQueue, fun h q queue behind => handOff_waits (congrArg List.head? queue) behind,
    fun q queue full => handOff_noRoom queue full, fun q queue room => handOff_moves (congrArg List.head? queue) room⟩

/-! ### Writeback -/

theorem writeback_notHead {s : State} (occ : s.wb.occ = true) (behind : s.rq.head? ≠ some s.wb.seq) :
    writeback s = .next (s.raise .internalFault (some s.wb.seq) none) := by
  rcases writeback_cases s with ⟨empty, -⟩ | ⟨-, -, e⟩ | ⟨-, head, -⟩
  · exact absurd (occ.symm.trans empty) (by decide)
  · exact e
  · exact absurd head behind

/-- A retirement writes its result to its destination and releases it (40_pipeline R165). -/
theorem State.commitResult_dest {s : State} {r : Reg} (dest : destOf s.wb.instr = some r) :
    s.commitResult.x[r] = s.wb.res ∧ s.commitResult.sb[r] = false := by
  rw [State.commitResult_x_of_dest dest, State.commitResult_sb, dest]
  simp

/-- A retirement leaves every other register and its bit alone (40_pipeline R165). -/
theorem State.commitResult_other {s : State} {r : Reg} (other : destOf s.wb.instr ≠ some r) :
    s.commitResult.x[r] = s.x[r] ∧ s.commitResult.sb[r] = s.sb[r] := by
  refine ⟨(s.commitResult_x_get r).resolve_right fun written => other written.1, ?_⟩
  rw [Bool.eq_iff_iff, State.commitResult_sb_get]
  exact and_iff_left other

/-- Settles O32: the state after a retirement is `afterRetire`. -/
theorem writebackRetiresTheHead : Obligations.WritebackRetiresTheHead := by
  intro s
  refine ⟨writeback_empty, writeback_notHead, fun q occ queue => ⟨s.commitResult.x, s.commitResult.sb, ?_, fun r =>
    ⟨State.commitResult_dest, State.commitResult_other⟩⟩⟩
  rw [writeback_retires occ (congrArg List.head? queue), afterRetire, queue]
  rfl

/-! ### The Integer unit -/

theorem integer_noQueue {s : State} (occ : s.int.occ = true) (queue : s.rq = []) :
    integer s = .next (s.raise .internalFault (some s.int.seq) none) := by
  simp [integer, occ, queue]

/-- A computation moves no instruction to another slot's number. -/
theorem ExecEffect.unit_seq {i : Instr} {s t : State} (h : ExecEffect i s t) (v : UnitId) : (t.unit v).seq = (s.unit v).seq := by
  by_cases hv : v = unitOf i
  · obtain ⟨r, ea, own⟩ := h.own
    rw [hv, own]
  · rw [h.unit v hv]

/-- What the Integer unit computes at the queue head goes to an empty Writeback latch in the same tick (40_pipeline R151). -/
theorem integer_handsOff {s t : State} (occ : s.int.occ = true) (head : s.rq.head? = some s.int.seq)
    (run : exec s.int.instr s = .next t) (going : t.status = .running) (room : s.wb.occ = false) :
    integer s = .next ((t.markDone .int).handedOff .int) := by
  have e := exec_effect run
  have seq : t.int.seq = s.int.seq := e.unit_seq .int
  rw [integer_head occ head, run, Result.andThen_next_of_running _ going]
  exact handOff_moves (by simp [State.markDone, e.keeps.rq, head, seq]) (by simp [State.markDone, e.wb, room])

/-- Settles O35: at the queue head, by the two ways its computation ends. -/
theorem integerUnitComputesOnlyAtTheHead : Obligations.IntegerUnitComputesOnlyAtTheHead := by
  intro s
  refine ⟨integer_empty, integer_noQueue, fun h q _ queue behind => ?_, fun q t occ queue run => ?_⟩
  · exact integer_waits (by simp [queue]) fun _ => by simpa [queue] using behind
  · have head : s.rq.head? = some s.int.seq := congrArg List.head? queue
    refine ⟨fun ended => ?_, fun going room => integer_handsOff occ head run going room⟩
    rw [integer_head occ head, run, Result.andThen_next_of_not_running _ ended]

end Sys2Proof.Machine
end
